-- ==== Sys2Proof/Word.lean ====
section
/-! DEFINITION. The vector types that cross the core's boundary (00_scope.md R6, R9; 41_field_codec.md R136). -/

namespace Sys2Proof

/-- A 16-bit multiplier operand or Booth register (`W_MUL`, R6). -/
abbrev Half := BitVec 16

/-- A 32-bit bus, product or single-precision pattern (`W_PROD`, `W_F`, R6). -/
abbrev Word := BitVec 32

/-- The divider's 64-bit unsigned extended mantissa (`W_EXT`, R6, R159). -/
abbrev Ext := BitVec 64

/-- The three fields of a single-precision pattern (R34 *FloatFields*, R136): sign, exponent with its bias,
and the 23 stored bits of the significand without the implicit bit. -/
structure FloatFields where
  sign : BitVec 1
  exp  : BitVec 8
  sig  : BitVec 23
  deriving DecidableEq, Repr

end Sys2Proof
end

