-- ==== Sys2Proof/Config.lean ====
section
/-! DEFINITION. The fixed constants of 00_scope.md R6 and R8, and the two values the spec leaves open: the NaN
pattern of 0/0 (R7) and the state before the first reset (70_reset_and_hazards.md R232). -/

namespace Sys2Proof.Config

/-- `W_MUL` (R6): operand width of the multiplier, and its number of Booth iterations. -/
@[simp] abbrev wMul : Nat := 16

/-- `BIAS` (R6): the exponent bias. -/
@[simp] abbrev bias : Int := 127

/-- `SHIFT_EXT` (R6): left shift of the dividend's true significand before the integer division. -/
@[simp] abbrev shiftExt : Nat := 23

/-- The implicit leading bit of a true significand, bit 23 (R134, R159). -/
@[simp] abbrev implicitBit : Ext := 0x800000#64

/-- `LAT_MUL` (R8): edges from the accept of a MUL to the edge that sets `done`, both included. -/
@[simp] abbrev latMul : Nat := 17

/-- `LAT_UNPACK`, `LAT_PACK` and `LAT_FDIV` (R8). -/
@[simp] abbrev latSingle : Nat := 1

/-- The spec's default for `P_QNAN` (R7, D13), from general knowledge and not from the source. -/
def qNanDefault : Word := 0x7FC00000#32

/-- What every admissible `P_QNAN` satisfies (R7): exponent field 0xFF and a significand other than 0. -/
def admissibleQNan (f : Word) : Bool :=
  f.extractLsb' 23 8 == 0xFF#8 && f.extractLsb' 0 23 != 0#23

/-- FREE VALUE: the 32 bits an implementation chooses for `P_QNAN`. Log entry 4. -/
opaque freeQNan : Word

/-- `P_QNAN` (R7): any admissible pattern. The free bits where they are admissible, which leaves every
admissible pattern possible; the default where they are not. Log entry 4. -/
def qNan : Word := if admissibleQNan freeQNan then freeQNan else qNanDefault

/-- FREE VALUE: the 120 bits of state (the rows of 10_state.md R20, log entry 9) before the first RST edge. Log entry 3. -/
opaque powerUpBits : BitVec 120

end Sys2Proof.Config
end

