-- ==== Sys2Proof/Machine/Operands.lean ====
section
/-! DEFINITION. The readings of a single-precision pattern: the codec's two functions (41_field_codec.md R130, R131,
R135, R136), the constants of 00_scope.md R12 and the predicates of R13. -/

namespace Sys2Proof.Machine

/-- The codec's `decompose`: bit 31, bits 30–23 and bits 22–0, copied with no conversion (R130, R135, R136). -/
def decompose (f : Word) : FloatFields where
  sign := f.extractLsb' 31 1
  exp  := f.extractLsb' 23 8
  sig  := f.extractLsb' 0 23

/-- The codec's `compose`: the three fields side by side, with no validation (R131, R135). -/
def compose (v : FloatFields) : Word := v.sign ++ v.exp ++ v.sig

/-- `INF(s)` (R12). -/
def infinity (s : BitVec 1) : Word := compose ⟨s, 0xFF#8, 0#23⟩

/-- `ZERO(s)` (R12). -/
def signedZero (s : BitVec 1) : Word := compose ⟨s, 0x00#8, 0#23⟩

/-- `is_zero`: +0 or −0 (R13, D14). -/
def isZero (f : Word) : Bool := f.extractLsb' 0 31 == 0#31

/-- `is_nan` (R13). -/
def isNan (f : Word) : Bool := (decompose f).exp == 0xFF#8 && (decompose f).sig != 0#23

/-- `is_pos`: an ordered comparison with 0, which a NaN fails (R13, D15). -/
def isPos (f : Word) : Bool := (decompose f).sign == 0#1 && !isZero f && !isNan f

/-- The true significand: the stored 23 bits with the implicit bit 23 ORed in (R134, R159), whatever the exponent
field is (R168). -/
def trueSig (sig : BitVec 23) : Ext := sig.setWidth 64 ||| Config.implicitBit

end Sys2Proof.Machine
end

