-- ==== Sys2Proof/Syntax.lean ====
section
/-! DEFINITION. The input ports sampled at an edge (10_state.md R21) and the six commands of
spec/opcode_table.json (30_encoding.md R73). -/

namespace Sys2Proof

/-- The input ports at one edge (R21). `clk` is the step itself. Every bit is 0 or 1 (D26). -/
structure Ports where
  rst   : Bool
  start : Bool
  op    : BitVec 2
  a     : Word
  b     : Word
  signI : BitVec 1
  expI  : BitVec 8
  sigI  : BitVec 23
  deriving DecidableEq, Repr

/-- The commands, with the operands each reads (R74). A port is exactly as wide as its operand, so every term is
a command the port can carry (R75 to R79). -/
inductive Instr where
  /-- RST, `1---` (R230). -/
  | rst
  /-- IDLE, `00--` (R233). -/
  | idle
  /-- MUL, `0100` (R100): multiplicand `x = a[15:0]`, multiplier `y = b[15:0]`. -/
  | mul (x y : Half)
  /-- UNPACK, `0101` (R130): the pattern `f = a[31:0]`. -/
  | unpack (f : Word)
  /-- PACK, `0110` (R131): `s = sign_i`, `e = exp_i`, `g = sig_i`. -/
  | pack (s : BitVec 1) (e : BitVec 8) (g : BitVec 23)
  /-- FDIV, `0111` (R150): dividend `f = a[31:0]`, divisor `g = b[31:0]`. -/
  | fdiv (f g : Word)
  deriving DecidableEq, Repr

end Sys2Proof
end

