-- ==== Sys2Proof/WellFormed.lean ====
section
/-! DEFINITION. What the checks of the model's input say: which program lines are well formed (30_encoding.md R81,
R82), and which input vectors drive every bus that their command does not name to 0 (R81). A command itself has no
ill-formed term: each port is exactly as wide as its operand, and no value of a bus is illegal (R77, R79). -/

namespace Sys2Proof

/-- An operand `x` or `y` of MUL as written (R81): signed decimal, or 16-bit hex. -/
inductive HalfArg where
  | dec (v : Int)
  | hex (n : Nat)
  deriving DecidableEq, Repr

/-- An operand `f` or `g` of UNPACK and FDIV as written (R81): a 32-bit pattern in hex, or a decimal literal with a
trailing `f`, here `digits / 10 ^ places` with its sign. -/
inductive WordArg where
  | hex (n : Nat)
  | lit (neg : Bool) (digits places : Nat)
  deriving DecidableEq, Repr

/-- A program line (R81) or pseudo-instruction (R82), with its operands as written. -/
inductive Line where
  | rst
  | idle
  | mul (x y : HalfArg)
  | unpack (f : WordArg)
  | pack (s e g : Nat)
  | fdiv (f g : WordArg)
  | nop
  | idleN (n : Nat)
  | waitdone
  | mulw (x y : HalfArg)
  deriving DecidableEq, Repr

/-- The operand is a 16-bit integer (R81). -/
def HalfArg.wf : HalfArg → Bool
  | .dec v => decide (-32768 ≤ v ∧ v ≤ 32767)
  | .hex n => decide (n < 2 ^ 16)

/-- `digits / 10 ^ places` in units of `2 ^ (-149)`, the weight of the lowest bit a binary32 pattern can have. -/
def litUnits (digits places : Nat) : Nat := digits * 2 ^ 149 / 10 ^ places

/-- How far `k` units stand above a 24-bit significand: 0 for a number below `2 ^ (-125)`. -/
def litShift (k : Nat) : Nat := k.log2 - 23

/-- The literal is exactly representable as a finite binary32 (R81): a whole number of units, with no bit below the
24-bit significand that its magnitude allows, and an exponent field of at most 254. -/
def litExact (digits places : Nat) : Bool :=
  let k := litUnits digits places
  digits * 2 ^ 149 % 10 ^ places == 0 && k % 2 ^ litShift k == 0 && decide (k.log2 < 277)

def WordArg.wf : WordArg → Bool
  | .hex n => decide (n < 2 ^ 32)
  | .lit _ digits places => litExact digits places

/-- The line's operands are in the ranges of R81 and R82. -/
def Line.wf : Line → Bool
  | .rst => true
  | .idle => true
  | .mul x y => x.wf && y.wf
  | .unpack f => f.wf
  | .pack s e g => decide (s ≤ 1 ∧ e ≤ 255 ∧ g ≤ 0x7FFFFF)
  | .fdiv f g => f.wf && g.wf
  | .nop => true
  | .idleN n => decide (1 ≤ n)
  | .waitdone => true
  | .mulw x y => x.wf && y.wf

/-- The input vector is one that a program line drives (R81): the don't-care bits of the control word and the
buses the command does not name are 0. -/
def Ports.canonical (p : Ports) : Bool :=
  let zeroB := p.b == 0#32
  let zeroFields := p.signI == 0#1 && p.expI == 0#8 && p.sigI == 0#23
  if p.rst then !p.start && p.op == 0#2 && p.a == 0#32 && zeroB && zeroFields
  else if !p.start then p.op == 0#2 && p.a == 0#32 && zeroB && zeroFields
  else if p.op = 0#2 then p.a.extractLsb' 16 16 == 0#16 && p.b.extractLsb' 16 16 == 0#16 && zeroFields
  else if p.op = 1#2 then zeroB && zeroFields
  else if p.op = 2#2 then p.a == 0#32 && zeroB
  else zeroFields

end Sys2Proof
end

