-- ==== Sys2Proof/Decode.lean ====
section
/-! DEFINITION. The control word (30_encoding.md R71), the command map (R72, R73), operand assembly (R74 to R78), and
the encoder. The input vector of an edge is also given as one number of 100 bits, in the layout of log entry 5. -/

namespace Sys2Proof

/-- The control word `CW[3:0] = {rst, start, op}`: a name for three ports, not a register (R71). -/
def Ports.cw (p : Ports) : BitVec 4 := BitVec.ofBool p.rst ++ BitVec.ofBool p.start ++ p.op

/-- The command of an input vector (R72, R73), with its operands taken from the buses (R74 to R78). Bus bits the
command ignores are dropped (R79). Whether the core is busy does not change how a control word is read (R80). -/
def decode (p : Ports) : Instr :=
  if p.rst then .rst
  else if !p.start then .idle
  else if p.op = 0b00#2 then .mul (p.a.extractLsb' 0 16) (p.b.extractLsb' 0 16)
  else if p.op = 0b01#2 then .unpack p.a
  else if p.op = 0b10#2 then .pack p.signI p.expI p.sigI
  else .fdiv p.a p.b

/-- Number of bits of an input vector: 4 of control word and 96 of buses (R70). -/
@[simp] abbrev portBits : Nat := 100

/-- The ports from one number (log entry 5): control word in bits 3..0, then `a`, `b`, `sign_i`, `exp_i`, `sig_i`
upwards. -/
def Ports.ofBits (w : BitVec 100) : Ports where
  op    := w.extractLsb' 0 2
  start := w.getLsbD 2
  rst   := w.getLsbD 3
  a     := w.extractLsb' 4 32
  b     := w.extractLsb' 36 32
  signI := w.extractLsb' 68 1
  expI  := w.extractLsb' 69 8
  sigI  := w.extractLsb' 77 23

def Ports.toBits (p : Ports) : BitVec 100 := p.sigI ++ p.expI ++ p.signI ++ p.b ++ p.a ++ p.cw

/-- Why a number is no input vector. The only reason: all 2 ^ 100 vectors have a meaning (R79). -/
inductive DecodeReject where
  /-- A bit above the 100 of the ports is set: no port carries it. -/
  | widerThanThePorts
  deriving DecidableEq, Repr

def decodeBits (w : BitVec 100) : Instr := decode (Ports.ofBits w)

/-- The decoder on any number, total, rejecting by name what is no input vector. -/
def decodeWord (n : Nat) : Except DecodeReject Instr :=
  if n < 2 ^ portBits then .ok (decodeBits (BitVec.ofNat portBits n)) else .error .widerThanThePorts

/-- A vector with the given control word and every bus 0. -/
def Ports.ofCW (rst start : Bool) (op : BitVec 2) : Ports where
  rst   := rst
  start := start
  op    := op
  a     := 0#32
  b     := 0#32
  signI := 0#1
  expI  := 0#8
  sigI  := 0#23

/-- The input vector a program line of R81 drives for the command: buses it does not name are 0. -/
def encodePorts : Instr → Ports
  | .rst => .ofCW true false 0b00#2
  | .idle => .ofCW false false 0b00#2
  | .mul x y => { Ports.ofCW false true 0b00#2 with a := x.setWidth 32, b := y.setWidth 32 }
  | .unpack f => { Ports.ofCW false true 0b01#2 with a := f }
  | .pack s e g => { Ports.ofCW false true 0b10#2 with signI := s, expI := e, sigI := g }
  | .fdiv f g => { Ports.ofCW false true 0b11#2 with a := f, b := g }

/-- The encoder: the command's input vector as one number. -/
def encode (i : Instr) : BitVec 100 := (encodePorts i).toBits

/-- One row of spec/opcode_table.json: the control word matches where its bits under the mask are the pattern. -/
structure Row where
  mnemonic : String
  pattern  : BitVec 4
  mask     : BitVec 4
  deriving DecidableEq, Repr

def Row.accepts (r : Row) (cw : BitVec 4) : Bool := cw &&& r.mask == r.pattern

/-- The command map (R73). -/
def opcodeTable : List Row :=
  [⟨"RST", 0b1000#4, 0b1000#4⟩, ⟨"IDLE", 0b0000#4, 0b1100#4⟩, ⟨"MUL", 0b0100#4, 0b1111#4⟩,
   ⟨"UNPACK", 0b0101#4, 0b1111#4⟩, ⟨"PACK", 0b0110#4, 0b1111#4⟩, ⟨"FDIV", 0b0111#4, 0b1111#4⟩]

/-- The mnemonic of a command's row. -/
def Instr.mnemonic : Instr → String
  | .rst => "RST"
  | .idle => "IDLE"
  | .mul _ _ => "MUL"
  | .unpack _ => "UNPACK"
  | .pack _ _ _ => "PACK"
  | .fdiv _ _ => "FDIV"

/-- The `nbits` low bits of `w` as an input vector, every bit above them 0 (log entry 5). -/
def tableWord (nbits w : Nat) : Nat := w % 2 ^ nbits

/-- The input vector of a table word. -/
def Ports.ofTableWord (nbits w : Nat) : Ports := Ports.ofBits (BitVec.ofNat portBits (tableWord nbits w))

/-- What the decoder reads from a word numbered as spec/opcode_table.json numbers it. -/
def decodeTableWord (nbits w : Nat) : Option Instr :=
  match decodeWord (tableWord nbits w) with
  | .ok i => some i
  | .error _ => none

end Sys2Proof
end

