-- ==== Sys2Proof/Machine/State.lean ====
section
/-! DEFINITION. The core's state (10_state.md R20), its reset values (R36), its output ports (R35), and the reasons a
step can stop. -/

namespace Sys2Proof.Machine

/-- The state elements of R20 (120 bits by its rows, log entry 9), and the model's own list of the input vectors the host has still to
present. Input ports are not state of the core (R21): `inputs` is the host, log entry 1. -/
structure State where
  /-- 1 while a MUL iterates (R29). -/
  busy   : Bool
  /-- The most recently accepted command has completed (R30). -/
  done   : Bool
  /-- Booth iterations still to run (R27). -/
  cnt    : BitVec 5
  /-- Booth accumulator (R23). -/
  A      : Half
  /-- Booth multiplier register (R24). -/
  Q      : Half
  /-- Booth multiplicand register (R25). -/
  M      : Half
  /-- Booth `Q_prev` (R26). -/
  Qp     : Bool
  /-- Data output register (R33). -/
  result : Word
  /-- UNPACK output registers (R34). -/
  sign_o : BitVec 1
  exp_o  : BitVec 8
  sig_o  : BitVec 23
  /-- The input vectors of the edges to come, the next edge first (R14, R21; log entry 1). -/
  inputs : List Ports
  deriving DecidableEq, Repr

/-- The output ports (R35). -/
structure Outputs where
  busy   : Bool
  done   : Bool
  result : Word
  sign_o : BitVec 1
  exp_o  : BitVec 8
  sig_o  : BitVec 23
  deriving DecidableEq, Repr

/-- Each output port always shows its register, and reading it changes nothing (R35, R54). This is also a run's
observation (R14). The Booth registers and `cnt` are hidden. -/
def State.outputs (s : State) : Outputs where
  busy   := s.busy
  done   := s.done
  result := s.result
  sign_o := s.sign_o
  exp_o  := s.exp_o
  sig_o  := s.sig_o

/-- The registers one Booth iteration changes. -/
structure BoothRegs where
  A  : Half
  Q  : Half
  Qp : Bool
  deriving DecidableEq, Repr

/-- No fault exists: "A model of the core has no fault outcome for any control word or operand value" (R200). -/
inductive Fault where
  deriving DecidableEq, Repr

/-- Why the model gives no meaning. Each is about what the host presents; no command is refused. -/
inductive Refusal where
  /-- Raised by `exec` for an instruction with no meaning yet; no arm does. Safe. -/
  | notModelled (mnemonic : String)
  /-- Raised by `step` when the host has presented no further edge: the run has ended (R14), and no rule says what
  the ports hold. Safe: nothing is claimed of an edge whose inputs are not known. Log entry 1. -/
  | noEdgePresented
  /-- Raised by `runProgram` for a program whose first line is not RST, as R232 asks. Safe. -/
  | firstLineNotRst
  /-- Raised by `runLines` for a program line outside the syntax of R81. Safe. -/
  | illFormedLine
  deriving DecidableEq, Repr

/-- The state after an RST edge (R36), with nothing further presented. Log entry 2. -/
def State.reset : State where
  busy   := false
  done   := false
  cnt    := 0#5
  A      := 0x0000#16
  Q      := 0x0000#16
  M      := 0x0000#16
  Qp     := false
  result := 0x00000000#32
  sign_o := 0#1
  exp_o  := 0x00#8
  sig_o  := 0x000000#23
  inputs := []

/-- The state before the first RST edge, for a given program: every element is a slice of one free value, so none
has a value and none need be consistent with another (R232; log entry 3). -/
def State.powerUp (program : List Ports) : State where
  busy   := Config.powerUpBits.getLsbD 0
  done   := Config.powerUpBits.getLsbD 1
  cnt    := Config.powerUpBits.extractLsb' 2 5
  A      := Config.powerUpBits.extractLsb' 7 16
  Q      := Config.powerUpBits.extractLsb' 23 16
  M      := Config.powerUpBits.extractLsb' 39 16
  Qp     := Config.powerUpBits.getLsbD 55
  result := Config.powerUpBits.extractLsb' 56 32
  sign_o := Config.powerUpBits.extractLsb' 88 1
  exp_o  := Config.powerUpBits.extractLsb' 89 8
  sig_o  := Config.powerUpBits.extractLsb' 97 23
  inputs := program

end Sys2Proof.Machine
end

