-- ==== Sys2Proof/Machine/Flags.lean ====
section
/-! DEFINITION. The status flags `busy` and `done` (10_state.md R29, R30). The core has no arithmetic flag (R31), so
no flag is computed from a result. -/

namespace Sys2Proof.Machine

/-- A MUL is accepted: it iterates, and has not completed (R29, R30). -/
def State.markStarted (s : State) : State := { s with busy := true, done := false }

/-- The 16th iteration completes a MUL (R106). -/
def State.markCompleted (s : State) : State := { s with busy := false, done := true }

/-- A command that completes at its accept edge never sets `busy` (R29) and sets `done` (R30). -/
def State.markDone (s : State) : State := { s with done := true }

end Sys2Proof.Machine
end

