-- ==== Sys2Proof/Machine/Ops.lean ====
section
/-! DEFINITION. The shared operations on the registers: writes, the Booth iteration edge
(40_booth_multiplier.md R101 to R106), and the priority of an iteration over every command but RST
(30_encoding.md R72). -/

namespace Sys2Proof.Machine

/-- Every element of R20 takes its reset value (R36, R230). What the host has still to present is not state of the
core and stays. -/
def State.toReset (s : State) : State := { State.reset with inputs := s.inputs }

def State.writeResult (r : Word) (s : State) : State := { s with result := r }

/-- The three UNPACK registers change together, at one edge (R54). -/
def State.writeFields (v : FloatFields) (s : State) : State :=
  { s with sign_o := v.sign, exp_o := v.exp, sig_o := v.sig }

/-- The registers a MUL accept loads with multiplicand `x` and multiplier `y` (R100, R37). -/
def State.loadBooth (x y : Half) (s : State) : State :=
  { s with M := x, Q := y, A := 0x0000#16, Qp := false, cnt := BitVec.ofNat 5 Config.wMul }

def State.boothRegs (s : State) : BoothRegs := ⟨s.A, s.Q, s.Qp⟩

def State.writeBooth (r : BoothRegs) (s : State) : State := { s with A := r.A, Q := r.Q, Qp := r.Qp }

def State.countDown (s : State) : State := { s with cnt := s.cnt - 1#5 }

/-- Step 2's selector, `Q[0]` the high bit and `Qp` the low bit (R102). -/
def boothSel (q0 qp : Bool) : BitVec 2 := BitVec.ofBool q0 ++ BitVec.ofBool qp

/-- Step 2's table: no-op, add, subtract, no-op, modulo 2^16 (R102). -/
def boothAdd (sel : BitVec 2) (A M : Half) : Half :=
  if sel = 0b01#2 then A + M else if sel = 0b10#2 then A - M else A

/-- One iteration on the registers, steps 1 to 5 (R101 to R105): the carry is bit 0 of the updated accumulator and
enters `Q[15]`; Q shifts logically, A arithmetically; `Qp` takes the old `Q[0]`. -/
def boothStep (M : Half) (r : BoothRegs) : BoothRegs :=
  let q0 := r.Q.getLsbD 0
  let A1 := boothAdd (boothSel q0 r.Qp) r.A M
  { A := A1.sshiftRight 1, Q := BitVec.ofBool (A1.getLsbD 0) ++ r.Q.extractLsb' 1 15, Qp := q0 }

/-- `{A, Q}`, the product once 16 iterations have run (R106). -/
def BoothRegs.product (r : BoothRegs) : Word := r.A ++ r.Q

/-- The iteration edge (R101). Where `cnt` is 1 before it, it also completes the MUL (R106). -/
def State.iterate (s : State) : State :=
  let r := boothStep s.M s.boothRegs
  let t := (s.writeBooth r).countDown
  if s.cnt = 1#5 then (t.writeResult r.product).markCompleted else t

/-- A command at an edge with `rst = 0` (R72, R235, R236): accepted, with its own effect, where `busy = 0` before
the edge. Where `busy = 1` the edge is an iteration edge and the command is lost. -/
def unlessBusy (accept : State → State) (s : State) : Host.Outcome State Fault Refusal :=
  .next (if s.busy then s.iterate else accept s)

end Sys2Proof.Machine
end

