-- ==== Sys2Proof/Machine/Codec.lean ====
section
/-! DEFINITION. UNPACK and PACK (41_field_codec.md R130, R131). -/

namespace Sys2Proof.Machine

/-- UNPACK (R130): the fields of `f`, and `done`. -/
def execUnpack (f : Word) (s : State) : Host.Outcome State Fault Refusal :=
  unlessBusy (fun t => (t.writeFields (decompose f)).markDone) s

/-- PACK (R131): `result` from the three fields, and `done`. -/
def execPack (sgn : BitVec 1) (e : BitVec 8) (g : BitVec 23) (s : State) : Host.Outcome State Fault Refusal :=
  unlessBusy (fun t => (t.writeResult (compose ⟨sgn, e, g⟩)).markDone) s

end Sys2Proof.Machine
end

