-- ==== Sys2Proof/Machine/Control.lean ====
section
/-! DEFINITION. RST and IDLE (70_reset_and_hazards.md R230 to R233). -/

namespace Sys2Proof.Machine

/-- RST (R230): every element to its reset value, whatever the state, also during a MUL (R231). -/
def execRst (s : State) : Host.Outcome State Fault Refusal := .next s.toReset

/-- IDLE (R233): nothing changes; while busy, an iteration edge. -/
def execIdle (s : State) : Host.Outcome State Fault Refusal := unlessBusy (fun t => t) s

end Sys2Proof.Machine
end

