-- ==== Sys2Proof/Machine/Divider.lean ====
section
/-! DEFINITION. FDIV (42_fp_divider.md): the ten steps R151 to R163, the function R164, and the command R150. -/

namespace Sys2Proof.Machine

/-- Step 5 (R157): the candidate exponent, an integer that does not wrap (D23). -/
def candidateExp (ea eb : BitVec 8) : Int :=
  ((ea.toNat : Int) - Config.bias) - ((eb.toNat : Int) - Config.bias) + Config.bias

/-- Steps 6 and 9 (R158, R162): an exponent out of 1..254 gives the signed infinity or zero; otherwise `r`. -/
def boundExp (s : BitVec 1) (e : Int) (r : Word) : Word :=
  if e ≥ 255 then infinity s else if e ≤ 0 then signedZero s else r

/-- Step 7 (R159): the widened dividend significand over the divisor's, unsigned and truncating. -/
def quotient (fa fb : BitVec 23) : Ext := (trueSig fa <<< Config.shiftExt) / trueSig fb

/-- Step 8 (R161): at most one shift, with its exponent. The first arm is never taken (R160), and is kept as the
source has it (C9). -/
def normalize (q0 : Ext) (e0 : Int) : Ext × Int :=
  if q0.getLsbD 24 then (q0 >>> 1, e0 + 1)
  else if !q0.getLsbD 23 then (q0 <<< 1, e0 - 1)
  else (q0, e0)

/-- Step 10 (R163): the low 8 bits of the exponent and the low 23 bits of the significand. -/
def repack (s : BitVec 1) (e : Int) (q : Ext) : Word := compose ⟨s, BitVec.ofInt 8 e, q.extractLsb' 0 23⟩

/-- Steps 3 to 10 on the operands' raw fields (R155 to R163, R168). -/
def divideFields (a b : FloatFields) : Word :=
  let s := a.sign ^^^ b.sign
  let e0 := candidateExp a.exp b.exp
  let n := normalize (quotient a.sig b.sig) e0
  boundExp s e0 (boundExp s n.2 (repack s n.2 n.1))

/-- `FDIV_F` (R164) for a given `P_QNAN`: the zero cases in the order of R151, then steps 3 to 10. -/
def divideWith (qNan a b : Word) : Word :=
  if isZero b then
    if isZero a then qNan else if isPos a then infinity 0#1 else infinity 1#1
  else if isZero a then 0x00000000#32
  else divideFields (decompose a) (decompose b)

/-- `FDIV_F` (R164). -/
def fdivF (a b : Word) : Word := divideWith Config.qNan a b

/-- FDIV (R150): `result`, and `done`. The UNPACK registers are not used or written (R135). -/
def execFdiv (f g : Word) (s : State) : Host.Outcome State Fault Refusal :=
  unlessBusy (fun t => (t.writeResult (fdivF f g)).markDone) s

end Sys2Proof.Machine
end

