-- ==== Sys2Proof/Machine/Multiplier.lean ====
section
/-! DEFINITION. MUL (40_booth_multiplier.md): the accept edge R100, and the function its iterations compute, R107. The
iteration edge itself is `State.iterate`. -/

namespace Sys2Proof.Machine

/-- MUL (R100): the accept edge loads the Booth registers and `cnt`, sets `busy` and clears `done`. -/
def execMul (x y : Half) (s : State) : Host.Outcome State Fault Refusal :=
  unlessBusy (fun t => (t.loadBooth x y).markStarted) s

/-- `n` iterations on the registers. -/
def boothIters (M : Half) : Nat → BoothRegs → BoothRegs
  | 0, r => r
  | n + 1, r => boothIters M n (boothStep M r)

/-- The registers as a MUL accept leaves them (R100). -/
def boothStart (y : Half) : BoothRegs := ⟨0x0000#16, y, false⟩

/-- `MUL_F` (R107). -/
def mulF (x y : Half) : Word := (boothIters x Config.wMul (boothStart y)).product

end Sys2Proof.Machine
end

