-- ==== Sys2Proof/Machine/Dispatch.lean ====
section
/-! DEFINITION. One arm per command: the arms of 30_encoding.md R72. -/

namespace Sys2Proof.Machine

def exec (i : Instr) (s : State) : Host.Outcome State Fault Refusal :=
  match i with
  | .rst => Sys2Proof.Machine.execRst s
  | .idle => Sys2Proof.Machine.execIdle s
  | .mul x y => Sys2Proof.Machine.execMul x y s
  | .unpack f => Sys2Proof.Machine.execUnpack f s
  | .pack sgn e g => Sys2Proof.Machine.execPack sgn e g s
  | .fdiv f g => Sys2Proof.Machine.execFdiv f g s

end Sys2Proof.Machine
end

