-- ==== Sys2Proof/Machine/Step.lean ====
section
/-! DEFINITION. One step is one rising edge of `clk` (00_scope.md R11): the core samples the input vector the host
presents and takes the arm it selects (30_encoding.md R72). -/

namespace Sys2Proof.Machine

/-- One edge. The head of `inputs` is sampled and is gone after the edge; every other effect is `exec`'s. Where the
host presents no further edge the run has ended (R14). -/
def step (s : State) : Host.Outcome State Fault Refusal :=
  match s.inputs with
  | [] => .refused .noEdgePresented
  | p :: later => exec (decode p) { s with inputs := later }

/-- The state whose next edge presents the input vector of a table word (log entries 5 and 6), before whatever the
host was to present. -/
def State.withFetchWord (s : State) (nbits w : Nat) : State :=
  { s with inputs := Ports.ofTableWord nbits w :: s.inputs }

end Sys2Proof.Machine
end

