-- ==== Sys2Proof/Machine/Program.lean ====
section
/-! DEFINITION. Programs and their runs (00_scope.md R14): a list of input vectors, run from power-up, its first
line RST (70_reset_and_hazards.md R232, R234). -/

namespace Sys2Proof.Machine

/-- A run of a program: one edge a line, from the state before the first reset, whose elements no rule gives a value.
A program whose first line is not RST is refused (R232). -/
def runProgram (program : List Ports) : Host.Outcome State Fault Refusal :=
  match program with
  | [] => .refused .firstLineNotRst
  | p :: _ =>
    if p.rst then Host.Core.run Sys2Proof.core program.length (State.powerUp program)
    else .refused .firstLineNotRst

/-- A run's observation: the output ports after the last line's edge (R14, R35). -/
def observe (program : List Ports) : Option Outputs :=
  match runProgram program with
  | .next s => some s.outputs
  | .fault r => nomatch r
  | .refused _ => none

/-- The state after one edge with the given input vector. `exec` always answers a next state. -/
def State.afterEdge (p : Ports) (s : State) : State :=
  match exec (decode p) s with
  | .next t => t
  | .fault r => nomatch r
  | .refused _ => s

/-- The state after a list of edges. -/
def State.afterEdges (ps : List Ports) (s : State) : State := ps.foldl (fun t p => t.afterEdge p) s

end Sys2Proof.Machine
end

