-- ==== Sys2Proof/Machine/Assembler.lean ====
section
/-! DEFINITION. Program syntax (30_encoding.md R81) and pseudo-instructions (R82): what input vectors a line drives,
and the reading of a line of text. Log entries 10 and 11. -/

namespace Sys2Proof.Machine

/-- The two's-complement bits of a MUL operand (R81). -/
def halfBits : HalfArg → Half
  | .dec v => BitVec.ofInt 16 v
  | .hex n => BitVec.ofNat 16 n

/-- The binary32 pattern of an exactly representable decimal literal (R81): exponent field 0 below `2 ^ (-126)`, and
otherwise the exponent that puts the leading 1 in bit 23. DESIGN CHOICE (log entry 13): the literal's minus sign is the
pattern's sign bit also where the value is 0, so `-0.0f` names 0x80000000. R81 does not say which zero it names. -/
def litBits (neg : Bool) (digits places : Nat) : Word :=
  let k := litUnits digits places
  let e := if k < 2 ^ 23 then 0 else k.log2 - 22
  compose ⟨BitVec.ofBool neg, BitVec.ofNat 8 e, BitVec.ofNat 23 (k / 2 ^ litShift k)⟩

/-- The pattern an UNPACK or FDIV operand names (R81). -/
def wordBits : WordArg → Word
  | .hex n => BitVec.ofNat 32 n
  | .lit neg digits places => litBits neg digits places

def mulLine (x y : HalfArg) : Ports := encodePorts (.mul (halfBits x) (halfBits y))

/-- A host's polling loop (R82): `IDLE` for as long as `busy` is 1 after the previous line's edge, for at most `n`
edges. -/
def waitIdles : Nat → State → List Ports
  | 0, _ => []
  | n + 1, s =>
    if s.busy then encodePorts .idle :: waitIdles n (s.afterEdge (encodePorts .idle)) else []

/-- The edges of a line, where `s` is the state after the previous line's edge (R81, R82). Sixteen IDLEs always see
`busy` clear (R239). -/
def expandLine (s : State) : Line → List Ports
  | .rst => [encodePorts .rst]
  | .idle => [encodePorts .idle]
  | .mul x y => [mulLine x y]
  | .unpack f => [encodePorts (.unpack (wordBits f))]
  | .pack sgn e g => [encodePorts (.pack (BitVec.ofNat 1 sgn) (BitVec.ofNat 8 e) (BitVec.ofNat 23 g))]
  | .fdiv f g => [encodePorts (.fdiv (wordBits f) (wordBits g))]
  | .nop => [encodePorts .idle]
  | .idleN n => List.replicate n (encodePorts .idle)
  | .waitdone => waitIdles Config.wMul s
  | .mulw x y => mulLine x y :: waitIdles Config.wMul (s.afterEdge (mulLine x y))

/-- The edges of a program's lines, each expanded in the state the lines before it leave. -/
def assemble : State → List Line → List Ports
  | _, [] => []
  | s, l :: ls => let ps := expandLine s l; ps ++ assemble (s.afterEdges ps) ls

/-- A run of a program given as lines, expanded from the reset state. DESIGN CHOICE (log entry 14): a WAITDONE before the
first RST, where `busy` is unspecified (R232), is expanded there too, to no edge, so the program runs if the first edge
that is left is RST. R82 does not say what such a WAITDONE is. -/
def runLines (ls : List Line) : Host.Outcome State Fault Refusal :=
  if ls.all Line.wf then runProgram (assemble State.reset ls) else .refused .illFormedLine

/-! ### Text -/

def isBlank (c : Char) : Bool := c == ' ' || c == '\t' || c == '\r'

def trimText (t : List Char) : List Char :=
  ((t.dropWhile isBlank).reverse.dropWhile isBlank).reverse

/-- The fields of a text between occurrences of a separator. -/
def splitText (sep : Char) : List Char → List (List Char)
  | [] => [[]]
  | c :: cs =>
    match splitText sep cs with
    | [] => [[]]
    | f :: fs => if c == sep then [] :: f :: fs else (c :: f) :: fs

def digitValue (base : Nat) (c : Char) : Option Nat :=
  let v :=
    if '0' ≤ c ∧ c ≤ '9' then c.toNat - 48
    else if 'A' ≤ c ∧ c ≤ 'F' then c.toNat - 55
    else if 'a' ≤ c ∧ c ≤ 'f' then c.toNat - 87
    else base
  if v < base then some v else none

def readDigits (base : Nat) (acc : Nat) : List Char → Option Nat
  | [] => some acc
  | c :: cs =>
    match digitValue base c with
    | some d => readDigits base (acc * base + d) cs
    | none => none

/-- A nonempty numeral. -/
def readNumeral (base : Nat) (t : List Char) : Option Nat := if t.isEmpty then none else readDigits base 0 t

/-- A PACK operand: decimal, or hexadecimal after `0x` (R9). DESIGN CHOICE (log entry 11): R81 gives its range only. -/
def readNat : List Char → Option Nat
  | '0' :: 'x' :: ds => readNumeral 16 ds
  | ds => readNumeral 10 ds

def readHalf : List Char → Option HalfArg
  | '0' :: 'x' :: ds => (readNumeral 16 ds).map .hex
  | '-' :: ds => (readNumeral 10 ds).map (fun n => .dec (-(n : Int)))
  | ds => (readNumeral 10 ds).map (fun n => .dec n)

/-- The magnitude of a decimal literal: digits with at most one point between them, then `f`. -/
def readLit (neg : Bool) (t : List Char) : Option WordArg :=
  match t.reverse with
  | 'f' :: body =>
    match splitText '.' body.reverse with
    | [whole] => (readNumeral 10 whole).map (fun n => .lit neg n 0)
    | [whole, frac] =>
      if whole.isEmpty || frac.isEmpty then none
      else (readNumeral 10 (whole ++ frac)).map (fun n => .lit neg n frac.length)
    | _ => none
  | _ => none

def readWord : List Char → Option WordArg
  | '0' :: 'x' :: ds => (readNumeral 16 ds).map .hex
  | '-' :: ds => readLit true ds
  | ds => readLit false ds

/-- The line with the given mnemonic and operand texts. DESIGN CHOICE (log entry 11): the count of `IDLE n` is read as a
decimal numeral only, so `IDLE 0x10` is no line; R81 and R82 give no notation for it. -/
def readCommand (word : List Char) (args : List (List Char)) : Option Line :=
  if word == ['R', 'S', 'T'] then
    match args with
    | [] => some .rst
    | _ => none
  else if word == ['I', 'D', 'L', 'E'] then
    match args with
    | [] => some .idle
    | [n] => (readNumeral 10 n).map .idleN
    | _ => none
  else if word == ['N', 'O', 'P'] then
    match args with
    | [] => some .nop
    | _ => none
  else if word == ['W', 'A', 'I', 'T', 'D', 'O', 'N', 'E'] then
    match args with
    | [] => some .waitdone
    | _ => none
  else if word == ['M', 'U', 'L'] then
    match args with
    | [x, y] => (readHalf x).bind (fun u => (readHalf y).map (fun v => .mul u v))
    | _ => none
  else if word == ['M', 'U', 'L', 'W'] then
    match args with
    | [x, y] => (readHalf x).bind (fun u => (readHalf y).map (fun v => .mulw u v))
    | _ => none
  else if word == ['U', 'N', 'P', 'A', 'C', 'K'] then
    match args with
    | [f] => (readWord f).map .unpack
    | _ => none
  else if word == ['P', 'A', 'C', 'K'] then
    match args with
    | [x, y, z] => (readNat x).bind (fun u => (readNat y).bind (fun v => (readNat z).map (fun w => .pack u v w)))
    | _ => none
  else if word == ['F', 'D', 'I', 'V'] then
    match args with
    | [f, g] => (readWord f).bind (fun u => (readWord g).map (fun v => .fdiv u v))
    | _ => none
  else none

/-- A line of program text: none where it is no line of R81 or R82, and no line at all where only a comment (from
`;`) or blanks stand. -/
def readLine (t : List Char) : Option (List Line) :=
  let body := trimText (t.takeWhile (fun c => c != ';'))
  if body.isEmpty then some []
  else
    let word := body.takeWhile (fun c => !isBlank c)
    let rest := trimText (body.dropWhile (fun c => !isBlank c))
    let args := if rest.isEmpty then [] else (splitText ',' rest).map trimText
    (readCommand word args).map (fun l => [l])

def readProgram : List (List Char) → Option (List Line)
  | [] => some []
  | t :: ts => (readLine t).bind (fun l => (readProgram ts).map (fun ls => l ++ ls))

/-- A run of program text, a list of its lines. -/
def runText (ts : List (List Char)) : Host.Outcome State Fault Refusal :=
  match readProgram ts with
  | some ls => runLines ls
  | none => .refused .illFormedLine

end Sys2Proof.Machine
end

