-- ==== Sys2Proof/Safety.lean ====
section
/-! DEFINITION. What claims use: the invariant of the status and the counter (10_state.md R27, R29), the progress of
a MUL, and the host's duties (70_reset_and_hazards.md R236, R243), which are premises and not behaviours of the core. -/

namespace Sys2Proof.Machine

/-- The state at an edge whose input vector is `p`, with `later` still to come. -/
abbrev State.presenting (s : State) (p : Ports) (later : List Ports) : State := { s with inputs := p :: later }

/-- `busy` is 1 exactly where iterations are left (R29), at most 16 of them (R27), and `done` is 0 while they run
(R30). True after every RST and kept by every edge; the state before the first RST need not have it (R232). -/
abbrev State.Consistent (s : State) : Prop :=
  (s.busy = true ↔ s.cnt ≠ 0#5) ∧ s.cnt.toNat ≤ Config.wMul ∧ (s.busy = true → s.done = false)

/-- A multiplication of `x` by `y` is in progress: `cnt` iterations are left of the 16, and the registers are those
that the others leave. -/
abbrev State.Multiplying (x y : Half) (s : State) : Prop :=
  s.busy = true ∧ s.M = x ∧ s.boothRegs = boothIters x (Config.wMul - s.cnt.toNat) (boothStart y)

/-- A command is presented at an edge where the core cannot accept it, and is lost (R236). -/
def commandLost (p : Ports) (s : State) : Bool := !p.rst && p.start && s.busy

/-- The host keeps its duty of R236 and R243: no command of the list is presented while `busy = 1`. -/
def hostWaits : State → List Ports → Bool
  | _, [] => true
  | s, p :: ps => !commandLost p s && hostWaits (s.afterEdge p) ps

/-- The host waits by counting its own edges (R239), without reading `busy`: after a MUL it presents no command for 16
edges, and after any other command or RST it may present one at once. `wait` is how many edges it must still let pass. -/
def hostCounts : Nat → List Ports → Bool
  | _, [] => true
  | wait, p :: ps =>
    if p.rst then hostCounts 0 ps
    else if p.start then wait == 0 && hostCounts (if p.op = 0b00#2 then Config.wMul else 0) ps
    else hostCounts (wait - 1) ps

/-- A program whose host resets first (R234) and then counts. -/
def spacedProgram : List Ports → Bool
  | [] => false
  | p :: ps => p.rst && hostCounts 0 ps

/-- A safe program (R234, R243): RST first, and no command lost after it. -/
def safeProgram : List Ports → Bool
  | [] => false
  | p :: ps => p.rst && hostWaits State.reset ps

end Sys2Proof.Machine
end

