-- ==== Sys2Proof/Certificates/Slice0/Obligations.lean ====
section
/-! DEFINITION. The statements for the provers. Each is about the machine, for every state and every operand unless it
says otherwise; none is about a program. `State.presenting` is a state whose next edge carries a given input vector. -/

open Sys2Proof Sys2Proof.Machine

/-! ### Encoding and the step -/

/-- Decoding the encoder's number gives the command back, with every operand at every value. The layout of the number is
the model's choice (log entry 5). -/
def Obligations.DecodeOfEncode : Prop :=
  ∀ i : Instr, decodeWord (encode i).toNat = .ok i

/-- The other direction: encoding what an input vector decodes to gives the vector back exactly where it is one that a
program line drives (30_encoding.md, Assembler syntax: buses a line does not name are driven 0). -/
def Obligations.EncodeOfDecodeExactlyOnCanonical : Prop :=
  ∀ p : Ports, encodePorts (decode p) = p ↔ p.canonical = true

/-- The layout of log entry 5 (the model's choice) drops no bit of the ports and adds none. -/
def Obligations.PortLayoutIsABijection : Prop :=
  (∀ p : Ports, Ports.ofBits p.toBits = p) ∧ (∀ w : BitVec 100, (Ports.ofBits w).toBits = w)

/-- R73: the six rows of the command map with the operands each command takes, and what every control word with
`rst = 0` does while busy. -/
def Obligations.CommandMap : Prop :=
  (∀ p : Ports,
    (p.cw &&& 0b1000#4 = 0b1000#4 → decode p = .rst) ∧
    (p.cw &&& 0b1100#4 = 0b0000#4 → decode p = .idle) ∧
    (p.cw = 0b0100#4 → decode p = .mul (p.a.extractLsb' 0 16) (p.b.extractLsb' 0 16)) ∧
    (p.cw = 0b0101#4 → decode p = .unpack p.a) ∧
    (p.cw = 0b0110#4 → decode p = .pack p.signI p.expI p.sigI) ∧
    (p.cw = 0b0111#4 → decode p = .fdiv p.a p.b)) ∧
  (∀ (s : State) (p : Ports) (later : List Ports), s.busy = true → p.cw &&& 0b1000#4 = 0b0000#4 →
    step (s.presenting p later) = exec .idle { s with inputs := later })

/-- R79: every control word has exactly one row, the one whose mnemonic the decoder's command has; 8 control words are
RST, 4 IDLE and one each the others; and bus bits a command ignores have no effect on what is decoded. -/
def Obligations.NoControlWordIsIllegal : Prop :=
  (∀ p : Ports, (opcodeTable.filter (fun r => r.accepts p.cw)).map Row.mnemonic = [(decode p).mnemonic]) ∧
  opcodeTable.map (fun r => ((List.range 16).filter (fun n => r.accepts (BitVec.ofNat 4 n))).length)
    = [8, 4, 1, 1, 1, 1] ∧
  (∀ p q : Ports, (decode p).mnemonic = (decode q).mnemonic →
    ((decode p).mnemonic = "MUL" → p.a.extractLsb' 0 16 = q.a.extractLsb' 0 16 ∧
      p.b.extractLsb' 0 16 = q.b.extractLsb' 0 16) →
    ((decode p).mnemonic = "UNPACK" → p.a = q.a) →
    ((decode p).mnemonic = "PACK" → p.signI = q.signI ∧ p.expI = q.expI ∧ p.sigI = q.sigI) →
    ((decode p).mnemonic = "FDIV" → p.a = q.a ∧ p.b = q.b) →
    decode p = decode q)

/-- A few words of each family decode to the command they stand for (a sanity statement). The words' bus bits are laid
out as log entry 5 says (the model's choice). -/
def Obligations.SampleWordsDecode : Prop :=
  decodeTableWord 8 0b1000 = some .rst ∧
  decodeTableWord 8 0b0000 = some .idle ∧
  decodeTableWord 104 (0b0100 + 0x0000FF21 * 2 ^ 4 + 0x00000045 * 2 ^ 36) = some (.mul 0xFF21#16 0x0045#16) ∧
  decodeTableWord 104 (0b0101 + 0x41F00000 * 2 ^ 4) = some (.unpack 0x41F00000#32) ∧
  decodeTableWord 104 (0b0110 + 1 * 2 ^ 68 + 131 * 2 ^ 69 + 0x700000 * 2 ^ 77)
    = some (.pack 1#1 131#8 0x700000#23) ∧
  decodeTableWord 104 (0b0111 + 0x40F00000 * 2 ^ 4 + 0x3FC00000 * 2 ^ 36)
    = some (.fdiv 0x40F00000#32 0x3FC00000#32)

/-- A step runs the command its input vector decodes to, on the state with that vector taken from the list (the list is
the model's choice, log entry 1). A word placed with `withFetchWord` is run exactly: the number's layout and the placing
are the model's choices (log entries 5 and 6). Where no edge is presented the step refuses by name, the model's choice
too (log entry 1). -/
def Obligations.StepRunsTheDecodedCommand : Prop :=
  (∀ (s : State) (p : Ports) (later : List Ports),
    step (s.presenting p later) = exec (decode p) { s with inputs := later }) ∧
  (∀ (s : State) (nbits w : Nat) (i : Instr), decodeTableWord nbits w = some i →
    step (s.withFetchWord nbits w) = exec i s) ∧
  (∀ s : State, s.inputs = [] → step s = .refused .noEdgePresented)

/-- R72, R203: the arms of one edge, in their order of priority: RST, a MUL iteration (which is what IDLE does while
busy), IDLE, and the command `op` selects. -/
def Obligations.StepTakesTheFirstArm : Prop :=
  ∀ (s t : State) (p : Ports) (later : List Ports), t = { s with inputs := later } →
    step (s.presenting p later) =
      if p.rst = true then exec .rst t
      else if s.busy = true then exec .idle t
      else if p.start = false then exec .idle t
      else if p.op = 0b00#2 then exec (.mul (p.a.extractLsb' 0 16) (p.b.extractLsb' 0 16)) t
      else if p.op = 0b01#2 then exec (.unpack p.a) t
      else if p.op = 0b10#2 then exec (.pack p.signI p.expI p.sigI) t
      else exec (.fdiv p.a p.b) t

/-- R200: no command faults, and no edge that is presented is refused. -/
def Obligations.EveryEdgeYieldsANextState : Prop :=
  (∀ (i : Instr) (s : State), ∃ t, exec i s = .next t) ∧
  (∀ s : State, s.inputs ≠ [] → ∃ t, step s = .next t)

/-! ### RST and IDLE -/

/-- R230, R36: RST from any state sets every element to its reset value, and a second RST changes nothing more. -/
def Obligations.RstSetsEveryElement : Prop :=
  (∀ p : Ports, p.rst = true → decode p = .rst) ∧
  (∀ s : State, exec .rst s = .next
    { busy := false, done := false, cnt := 0#5, A := 0x0000#16, Q := 0x0000#16, M := 0x0000#16, Qp := false,
      result := 0x00000000#32, sign_o := 0#1, exp_o := 0x00#8, sig_o := 0x000000#23, inputs := s.inputs }) ∧
  (∀ s t : State, exec .rst s = .next t → exec .rst t = .next t)

/-- R231, R203: `rst = 1` overrides every other input, and an iteration in progress: the product is never written. -/
def Obligations.RstOverridesEverything : Prop :=
  ∀ (s : State) (p : Ports) (later : List Ports), p.rst = true →
    ∃ t, step (s.presenting p later) = .next t ∧ t = { State.reset with inputs := later } ∧
      t.result = 0x00000000#32 ∧ t.done = false ∧ t.busy = false

/-- R233: with no command nothing changes; while busy the edge is the iteration edge every command with `rst = 0`
gives. -/
def Obligations.IdleChangesNothing : Prop :=
  (∀ p : Ports, p.rst = false → p.start = false → decode p = .idle) ∧
  (∀ s : State, s.busy = false → exec .idle s = .next s) ∧
  (∀ (i : Instr) (s : State), i ≠ .rst → s.busy = true → exec .idle s = exec i s)

/-- R236: a command presented while busy is lost. Every control word with `rst = 0` gives the same state, the iteration
edge's, also at the 16th iteration edge. -/
def Obligations.StartWhileBusyIsLost : Prop :=
  (∀ (i : Instr) (s : State), i ≠ .rst → s.busy = true → exec i s = exec .idle s) ∧
  (∀ (s : State) (p q : Ports) (later : List Ports), s.busy = true → p.rst = false → q.rst = false →
    step (s.presenting p later) = step (s.presenting q later)) ∧
  (∀ (s : State) (p : Ports) (later : List Ports), s.busy = true → s.cnt = 1#5 → p.rst = false →
    ∃ t, step (s.presenting p later) = .next t ∧ t.busy = false ∧ t.done = true ∧ t.cnt = 0#5 ∧
      t.M = s.M ∧ t.sign_o = s.sign_o ∧ t.exp_o = s.exp_o ∧ t.sig_o = s.sig_o ∧ t.inputs = later)

/-! ### MUL -/

/-- R100: the accept edge of MUL, its whole effect and, by the equation, its frame. The high halves of the buses are
ignored (R75), and a MUL presented while busy is not accepted. -/
def Obligations.MulAccept : Prop :=
  (∀ (x y : Half) (s : State), s.busy = false → exec (.mul x y) s = .next
    { s with M := x, Q := y, A := 0x0000#16, Qp := false, cnt := 16#5, busy := true, done := false }) ∧
  (∀ p : Ports, p.rst = false → p.start = true → p.op = 0b00#2 →
    decode p = .mul (p.a.extractLsb' 0 16) (p.b.extractLsb' 0 16)) ∧
  (∀ (x y : Half) (s : State), s.busy = true → exec (.mul x y) s = exec .idle s)

/-- The iteration edge (40_booth_multiplier.md, one iteration and completion): the selector's table (R102), the old
`Q[0]` into `Qp` (R103), bit 0 of the updated accumulator (R104) into `Q[15]`, the two shifts, the count, and at the
16th edge the product. The equation is also its frame. It holds for every busy state, so also at `cnt = 0`, where the
count wraps: there it rests on the model's reading of the 5-bit register (log entry 8, DEDUCED) and on no rule. -/
def Obligations.IterationEdge : Prop :=
  ∀ (i : Instr) (s : State), i ≠ .rst → s.busy = true →
    ∃ (A1 nextA nextQ : Half),
      A1 = (match s.Q.getLsbD 0, s.Qp with
        | false, false => s.A
        | false, true => s.A + s.M
        | true, false => s.A - s.M
        | true, true => s.A) ∧
      nextA = A1.sshiftRight 1 ∧
      (∀ k, k < 15 → nextQ.getLsbD k = s.Q.getLsbD (k + 1)) ∧ nextQ.getLsbD 15 = A1.getLsbD 0 ∧
      exec i s = .next
        { s with
          A := nextA, Q := nextQ, Qp := s.Q.getLsbD 0, cnt := s.cnt - 1#5,
          result := if s.cnt = 1#5 then nextA ++ nextQ else s.result,
          busy := if s.cnt = 1#5 then false else s.busy,
          done := if s.cnt = 1#5 then true else s.done }

/-- The combined shift (R105's derived sentence): one iteration shifts the pair of the updated accumulator and Q right
arithmetically, as one 32-bit unit. -/
def Obligations.IterationShiftsThePair : Prop :=
  ∀ (M : Half) (r : BoothRegs),
    (boothStep M r).A ++ (boothStep M r).Q
      = (boothAdd (boothSel (r.Q.getLsbD 0) r.Qp) r.A M ++ r.Q).sshiftRight 1

/-- R25: M holds the multiplicand. A MUL accept loads it, RST clears it, and no other edge writes it. -/
def Obligations.OnlyMulAndRstWriteM : Prop :=
  (∀ p : Ports, p.cw = 0b0100#4 → decode p = .mul (p.a.extractLsb' 0 16) (p.b.extractLsb' 0 16)) ∧
  (∀ (x y : Half) (s t : State), s.busy = false → exec (.mul x y) s = .next t → t.M = x) ∧
  (∀ s t : State, exec .rst s = .next t → t.M = 0x0000#16) ∧
  (∀ (i : Instr) (s t : State), exec i s = .next t → i ≠ .rst → (s.busy = true ∨ i.mnemonic ≠ "MUL") → t.M = s.M)

/-- The accept edge sets the Booth registers in which a multiplication is in progress. -/
def Obligations.MulAcceptStartsMultiplying : Prop :=
  ∀ (x y : Half) (s : State), s.busy = false →
    ∃ t, exec (.mul x y) s = .next t ∧ t.Multiplying x y ∧ t.Consistent

/-- A multiplication in progress stays in progress at every edge but RST, one iteration further, until the last
iteration writes `MUL_F`. -/
def Obligations.IterationKeepsMultiplying : Prop :=
  ∀ (i : Instr) (x y : Half) (s t : State), s.Consistent → s.Multiplying x y → i ≠ .rst → exec i s = .next t →
    (s.cnt ≠ 1#5 → t.Multiplying x y ∧ t.cnt.toNat + 1 = s.cnt.toNat ∧ t.result = s.result) ∧
    (s.cnt = 1#5 → t.busy = false ∧ t.done = true ∧ t.result = mulF x y)

/-- During the 16 iteration edges, whatever the ports carry with `rst = 0`: busy, not done, and `result` and the UNPACK
registers as they were before the MUL. -/
def Obligations.NoPartialProductShows : Prop :=
  ∀ (s : State) (x y : Half) (p : Ports) (ps later : List Ports), s.busy = false → decode p = .mul x y →
    ps.all (fun q => !q.rst) = true → ps.length < 16 →
    ∃ t, Host.Core.run core (1 + ps.length) (s.presenting p (ps ++ later)) = .next t ∧
      t.busy = true ∧ t.done = false ∧ t.cnt.toNat = 16 - ps.length ∧ t.result = s.result ∧
      t.sign_o = s.sign_o ∧ t.exp_o = s.exp_o ∧ t.sig_o = s.sig_o ∧ t.M = x ∧ t.inputs = later

/-- The product is there 17 edges after the accept, counting the accept, whatever the ports carry at the 16 iteration
edges with `rst = 0`. The core then accepts again. -/
def Obligations.MulCompletesAfterSeventeenEdges : Prop :=
  ∀ (s : State) (x y : Half) (p : Ports) (ps later : List Ports), s.busy = false → decode p = .mul x y →
    ps.all (fun q => !q.rst) = true → ps.length + 1 = Config.latMul →
    ∃ t, Host.Core.run core Config.latMul (s.presenting p (ps ++ later)) = .next t ∧
      t.result = mulF x y ∧ t.busy = false ∧ t.done = true ∧ t.cnt = 0#5 ∧
      t.sign_o = s.sign_o ∧ t.exp_o = s.exp_o ∧ t.sig_o = s.sig_o ∧ t.M = x ∧ t.inputs = later

/-- The closed form of `MUL_F` (40_booth_multiplier.md, derived): the exact signed product for every multiplicand but
−32768 and every multiplier. -/
def Obligations.MulIsExactSignedProduct : Prop :=
  ∀ x y : Half, x ≠ 0x8000#16 → (mulF x y).toInt = x.toInt * y.toInt

/-- The closed form of `MUL_F` for the multiplicand −32768 (derived): the negated product, which differs from the true
one for every multiplier but 0. -/
def Obligations.MulNegatesForMinimumMultiplicand : Prop :=
  ∀ y : Half, mulF 0x8000#16 y = BitVec.ofInt 32 (32768 * y.toInt) ∧
    ((mulF 0x8000#16 y).toInt = -32768 * y.toInt ↔ y = 0x0000#16)

/-- A zero operand gives 0, also with the multiplicand −32768 (derived). -/
def Obligations.MulByZero : Prop :=
  ∀ n : Half, mulF 0x0000#16 n = 0x00000000#32 ∧ mulF n 0x0000#16 = 0x00000000#32

/-- Commutativity fails exactly where one operand is −32768 and the other is neither 0 nor −32768 (derived). -/
def Obligations.MulCommutesExactly : Prop :=
  ∀ x y : Half, mulF x y = mulF y x ↔
    ¬ ((x = 0x8000#16 ∧ y ≠ 0x0000#16 ∧ y ≠ 0x8000#16) ∨ (y = 0x8000#16 ∧ x ≠ 0x0000#16 ∧ x ≠ 0x8000#16))

/-- No value left by an earlier command, by RST or by power-up reaches a product, and neither does anything the ports
carry after the accept edge. -/
def Obligations.ProductDependsOnOperandsOnly : Prop :=
  ∀ (s u s' u' : State) (p q : Ports) (ps qs : List Ports), s.busy = false → u.busy = false →
    decode p = decode q → (decode p).mnemonic = "MUL" →
    ps.all (fun r => !r.rst) = true → qs.all (fun r => !r.rst) = true → ps.length = 16 → qs.length = 16 →
    Host.Core.run core 17 (s.presenting p ps) = .next s' → Host.Core.run core 17 (u.presenting q qs) = .next u' →
    s'.result = u'.result ∧ s'.A = u'.A ∧ s'.Q = u'.Q ∧ s'.M = u'.M ∧ s'.Qp = u'.Qp ∧ s'.cnt = u'.cnt

/-! ### UNPACK and PACK -/

/-- R130: UNPACK copies the three fields of the pattern bit for bit, and sets `done`; nothing else changes. While
busy the command is lost. -/
def Obligations.UnpackWritesTheFields : Prop :=
  (∀ (f : Word) (s : State), s.busy = false → exec (.unpack f) s = .next
    { s with sign_o := f.extractLsb' 31 1, exp_o := f.extractLsb' 23 8, sig_o := f.extractLsb' 0 23, done := true }) ∧
  (∀ p : Ports, p.rst = false → p.start = true → p.op = 0b01#2 → decode p = .unpack p.a) ∧
  (∀ (f : Word) (s : State), s.busy = true → exec (.unpack f) s = exec .idle s)

/-- R131: PACK puts the three fields side by side into `result`, with no validation, and sets `done`; nothing else
changes. While busy the command is lost. -/
def Obligations.PackWritesThePattern : Prop :=
  (∀ (sgn : BitVec 1) (e : BitVec 8) (g : BitVec 23) (s : State), s.busy = false → exec (.pack sgn e g) s = .next
    { s with result := sgn ++ e ++ g, done := true }) ∧
  (∀ p : Ports, p.rst = false → p.start = true → p.op = 0b10#2 → decode p = .pack p.signI p.expI p.sigI) ∧
  (∀ (sgn : BitVec 1) (e : BitVec 8) (g : BitVec 23) (s : State), s.busy = true →
    exec (.pack sgn e g) s = exec .idle s)

/-- The codec's round trip, both directions, through the commands (derived in the spec from UNPACK and PACK). -/
def Obligations.CodecRoundTrip : Prop :=
  (∀ (v : Word) (s : State), s.busy = false →
    ∃ t u, exec (.unpack v) s = .next t ∧ exec (.pack t.sign_o t.exp_o t.sig_o) t = .next u ∧ u.result = v) ∧
  (∀ (sgn : BitVec 1) (e : BitVec 8) (g : BitVec 23) (s : State), s.busy = false →
    ∃ t u, exec (.pack sgn e g) s = .next t ∧ exec (.unpack t.result) t = .next u ∧
      u.sign_o = sgn ∧ u.exp_o = e ∧ u.sig_o = g)

/-! ### FDIV -/

/-- FDIV completes at its accept edge: `FDIV_F` of the operands into `result`, and `done`; nothing else changes, the
UNPACK registers included. While busy the command is lost. What `FDIV_F` is, the statements after this one say. -/
def Obligations.FdivWritesTheQuotient : Prop :=
  (∀ (f g : Word) (s : State), s.busy = false → exec (.fdiv f g) s = .next
    { s with result := fdivF f g, done := true }) ∧
  (∀ p : Ports, p.rst = false → p.start = true → p.op = 0b11#2 → decode p = .fdiv p.a p.b) ∧
  (∀ (f g : Word) (s : State), s.busy = true → exec (.fdiv f g) s = exec .idle s)

/-- R152: the four zero-by-zero divisions give `P_QNAN`; and the model's `P_QNAN`, whatever it is, is a NaN pattern. -/
def Obligations.ZeroByZeroIsQNan : Prop :=
  (∀ (a b : Word) (s : State), s.busy = false → (a = 0x00000000#32 ∨ a = 0x80000000#32) →
    (b = 0x00000000#32 ∨ b = 0x80000000#32) →
    exec (.fdiv a b) s = .next { s with result := Config.qNan, done := true }) ∧
  Config.qNan.extractLsb' 23 8 = 0xFF#8 ∧ Config.qNan.extractLsb' 0 23 ≠ 0#23

/-- R153: a nonzero dividend over a zero of either sign gives an infinity signed by the dividend alone, and a NaN
dividend of either sign gives −∞. -/
def Obligations.NonzeroByZeroIsInfinity : Prop :=
  ∀ (a b : Word) (s : State), s.busy = false → a ≠ 0x00000000#32 → a ≠ 0x80000000#32 →
    (b = 0x00000000#32 ∨ b = 0x80000000#32) →
    exec (.fdiv a b) s = .next
      { s with
        result := if a.getLsbD 31 = false ∧ ¬ (a.extractLsb' 23 8 = 0xFF#8 ∧ a.extractLsb' 0 23 ≠ 0#23)
          then 0x7F800000#32 else 0xFF800000#32,
        done := true }

/-- R154: a zero dividend of either sign over anything but a zero gives +0. -/
def Obligations.ZeroByNonzeroIsPlusZero : Prop :=
  ∀ (a b : Word) (s : State), s.busy = false → (a = 0x00000000#32 ∨ a = 0x80000000#32) →
    b ≠ 0x00000000#32 → b ≠ 0x80000000#32 →
    exec (.fdiv a b) s = .next { s with result := 0x00000000#32, done := true }

/-- R158, with the sign of R156 and the candidate exponent of R157: a candidate of 255 or more gives the signed
infinity, and one of 0 or less the signed zero, whatever the significands. -/
def Obligations.CandidateExponentBounds : Prop :=
  ∀ (a b : Word) (s : State), s.busy = false → a.extractLsb' 0 31 ≠ 0#31 → b.extractLsb' 0 31 ≠ 0#31 →
    ∃ (sgn : BitVec 1) (e0 : Int),
      sgn = a.extractLsb' 31 1 ^^^ b.extractLsb' 31 1 ∧
      e0 = ((a.extractLsb' 23 8).toNat : Int) - (b.extractLsb' 23 8).toNat + 127 ∧
      (e0 ≥ 255 → exec (.fdiv a b) s = .next { s with result := sgn ++ 0xFF#8 ++ 0#23, done := true }) ∧
      (e0 ≤ 0 → exec (.fdiv a b) s = .next { s with result := sgn ++ 0x00#8 ++ 0#23, done := true })

/-- The quotient's range (derived): at least 2^22 and below 2^24, both attained. So bit 24 is never set, and bit 23 is
clear exactly where the dividend's significand is the smaller. -/
def Obligations.QuotientRange : Prop :=
  (∀ fa fb : BitVec 23,
    2 ^ 22 ≤ (quotient fa fb).toNat ∧ (quotient fa fb).toNat < 2 ^ 24 ∧
    (quotient fa fb).getLsbD 24 = false ∧
    ((quotient fa fb).getLsbD 23 = false ↔ fa.toNat < fb.toNat)) ∧
  (quotient 0#23 0x7FFFFF#23).toNat = 2 ^ 22 ∧ (quotient 0x7FFFFF#23 0#23).toNat = 2 ^ 24 - 1

/-- Steps 7 to 10 on natural numbers (derived, from the quotient's range): where the candidate exponent is in 1..254,
the result is the truncated quotient of the true significands, shifted left once where the dividend's is the smaller.
No width of the 64-bit datapath shows. -/
def Obligations.InRangeQuotient : Prop :=
  ∀ (a b : Word) (ea eb fa fb q : Nat) (sgn : BitVec 1), a.extractLsb' 0 31 ≠ 0#31 → b.extractLsb' 0 31 ≠ 0#31 →
    ea = (a.extractLsb' 23 8).toNat → eb = (b.extractLsb' 23 8).toNat →
    fa = (a.extractLsb' 0 23).toNat → fb = (b.extractLsb' 0 23).toNat →
    sgn = a.extractLsb' 31 1 ^^^ b.extractLsb' 31 1 →
    q = (2 ^ 23 + fa) * 2 ^ 23 / (2 ^ 23 + fb) →
    eb < ea + 127 → ea + 127 < eb + 255 →
    (fb ≤ fa → fdivF a b = sgn ++ BitVec.ofNat 8 (ea + 127 - eb) ++ BitVec.ofNat 23 (q - 2 ^ 23)) ∧
    (fa < fb → fdivF a b = sgn ++ BitVec.ofNat 8 (ea + 126 - eb) ++
      (if ea + 126 = eb then 0#23 else BitVec.ofNat 23 (2 * q - 2 ^ 23)))

/-- The post-check fires exactly where the candidate exponent is 1 and the dividend's significand is the smaller, and
then only as an underflow (derived). -/
def Obligations.PostCheckFiresOnlyOnUnderflow : Prop :=
  ∀ (e0 : Int) (fa fb : BitVec 23) (n : Ext × Int), 1 ≤ e0 → e0 ≤ 254 → n = normalize (quotient fa fb) e0 →
    n.2 < 255 ∧ (n.2 ≤ 0 ↔ e0 = 1 ∧ fa.toNat < fb.toNat) ∧
    2 ^ 23 ≤ n.1.toNat ∧ n.1.toNat < 2 ^ 24

/-- Every result is `P_QNAN` (only for 0/0), an infinity, a zero or a normal pattern: none is subnormal (derived). -/
def Obligations.FdivResultClasses : Prop :=
  ∀ a b : Word,
    (fdivF a b = Config.qNan ∧ a.extractLsb' 0 31 = 0#31 ∧ b.extractLsb' 0 31 = 0#31) ∨
    fdivF a b = 0x7F800000#32 ∨ fdivF a b = 0xFF800000#32 ∨
    fdivF a b = 0x00000000#32 ∨ fdivF a b = 0x80000000#32 ∨
    (1 ≤ ((fdivF a b).extractLsb' 23 8).toNat ∧ ((fdivF a b).extractLsb' 23 8).toNat ≤ 254)

/-- Division truncates (derived): for normal operands and a normal result, the result's magnitude is never above the
exact quotient, and is below it by less than one unit in the last place, or less than two where the quotient was
shifted left. -/
def Obligations.FdivTruncates : Prop :=
  ∀ (a b r : Word) (ea eb er ma mb mr : Nat), r = fdivF a b →
    ea = (a.extractLsb' 23 8).toNat → eb = (b.extractLsb' 23 8).toNat → er = (r.extractLsb' 23 8).toNat →
    ma = 2 ^ 23 + (a.extractLsb' 0 23).toNat → mb = 2 ^ 23 + (b.extractLsb' 0 23).toNat →
    mr = 2 ^ 23 + (r.extractLsb' 0 23).toNat →
    1 ≤ ea → ea ≤ 254 → 1 ≤ eb → eb ≤ 254 → 1 ≤ er → er ≤ 254 →
    ∃ R T ulp : ℚ, R = mr * (2 : ℚ) ^ ((er : Int) - 150) ∧ T = (ma : ℚ) / mb * (2 : ℚ) ^ ((ea : Int) - eb) ∧
      ulp = (2 : ℚ) ^ ((er : Int) - 150) ∧
      R ≤ T ∧ (mb ≤ ma → T - R < ulp) ∧ (ma < mb → T - R < 2 * ulp)

/-- The sign of every result but 0/0's (derived): the dividend's comparison with 0 over a zero divisor, 0 for a zero
dividend, and otherwise the exclusive or of the operands' signs. -/
def Obligations.FdivSigns : Prop :=
  ∀ a b : Word, ¬ (a.extractLsb' 0 31 = 0#31 ∧ b.extractLsb' 0 31 = 0#31) →
    (fdivF a b).getLsbD 31 =
      if b.extractLsb' 0 31 = 0#31 then !isPos a
      else if a.extractLsb' 0 31 = 0#31 then false
      else a.getLsbD 31 ^^ b.getLsbD 31

/-- Infinite, NaN and subnormal operands are numbers like any other (derived): for all nonzero operands, whatever their
exponent fields, the result is the one function of the raw fields, here on integers; so every nonzero pattern over itself
gives 1.0, also ∞/∞ and NaN/NaN, and every normal pattern over 1.0 gives itself. -/
def Obligations.FdivKnowsOnlyZeros : Prop :=
  (∀ (a b : Word) (sgn : BitVec 1) (ea eb fa fb q0 q : Nat) (e0 e : Int),
    a.extractLsb' 0 31 ≠ 0#31 → b.extractLsb' 0 31 ≠ 0#31 →
    sgn = a.extractLsb' 31 1 ^^^ b.extractLsb' 31 1 →
    ea = (a.extractLsb' 23 8).toNat → eb = (b.extractLsb' 23 8).toNat →
    fa = (a.extractLsb' 0 23).toNat → fb = (b.extractLsb' 0 23).toNat →
    e0 = (ea : Int) - eb + 127 →
    q0 = (2 ^ 23 + fa) * 2 ^ 23 / (2 ^ 23 + fb) →
    q = (if q0 < 2 ^ 23 then 2 * q0 else q0) →
    e = (if q0 < 2 ^ 23 then e0 - 1 else e0) →
    fdivF a b =
      if e0 ≥ 255 then sgn ++ 0xFF#8 ++ 0#23
      else if e0 ≤ 0 ∨ e ≤ 0 then sgn ++ 0x00#8 ++ 0#23
      else sgn ++ BitVec.ofInt 8 e ++ BitVec.ofNat 23 (q - 2 ^ 23)) ∧
  (∀ f : Word, f.extractLsb' 0 31 ≠ 0#31 → fdivF f f = 0x3F800000#32) ∧
  (∀ f : Word, 1 ≤ (f.extractLsb' 23 8).toNat → (f.extractLsb' 23 8).toNat ≤ 254 → fdivF f 0x3F800000#32 = f)

/-- UNPACK, PACK and FDIV accepted at an edge have completed after that one edge, and the core accepts at the next
(70_reset_and_hazards.md, issue distances and latency table). -/
def Obligations.SingleEdgeCommandsComplete : Prop :=
  ∀ (s : State) (p : Ports) (later : List Ports), s.busy = false → p.rst = false → p.start = true → p.op ≠ 0b00#2 →
    ∃ t, Host.Core.run core Config.latSingle (s.presenting p later) = .next t ∧
      t.done = true ∧ t.busy = false ∧ t.inputs = later

/-! ### Status, outputs and the invariant -/

/-- What the model calls consistent holds after reset. -/
def Obligations.ResetIsConsistent : Prop := State.reset.Consistent

/-- From every consistent state a step leads to a consistent one: `busy` is 1 exactly where iterations are left, at
most 16, and `done` is 0 while they run. -/
def Obligations.StepKeepsConsistent : Prop :=
  ∀ s t : State, s.Consistent → step s = .next t → t.Consistent

/-- R30: `done` is cleared by a MUL accept and RST, set by a MUL completion and by an accepted UNPACK, PACK or FDIV, and
changed by no other edge. -/
def Obligations.DoneChanges : Prop :=
  ∀ (i : Instr) (s t : State), exec i s = .next t →
    (i = .rst → t.done = false) ∧
    (i ≠ .rst → s.busy = true → t.done = if s.cnt = 1#5 then true else s.done) ∧
    (s.busy = false → i.mnemonic = "MUL" → t.done = false) ∧
    (s.busy = false → i.mnemonic = "UNPACK" ∨ i.mnemonic = "PACK" ∨ i.mnemonic = "FDIV" → t.done = true) ∧
    (s.busy = false → i = .idle → t.done = s.done)

/-- R33: the three edges that write `result`, and RST; every other edge leaves it unchanged. -/
def Obligations.ResultChanges : Prop :=
  ∀ (i : Instr) (s t : State), exec i s = .next t →
    (i = .rst → t.result = 0x00000000#32) ∧
    (i ≠ .rst → s.busy = true → s.cnt = 1#5 → t.result = t.A ++ t.Q) ∧
    (i ≠ .rst → s.busy = true → s.cnt ≠ 1#5 → t.result = s.result) ∧
    (∀ sgn e g, i = .pack sgn e g → s.busy = false → t.result = sgn ++ e ++ g) ∧
    (∀ f g, i = .fdiv f g → s.busy = false → t.result = fdivF f g) ∧
    (s.busy = false → i = .idle ∨ i.mnemonic = "MUL" ∨ i.mnemonic = "UNPACK" → t.result = s.result)

/-- R240: an accepted UNPACK never changes `result`, and MUL, PACK and FDIV (accepted or not, and every iteration edge)
never change the UNPACK registers. -/
def Obligations.OutputIsolation : Prop :=
  (∀ (f : Word) (s t : State), s.busy = false → exec (.unpack f) s = .next t → t.result = s.result) ∧
  (∀ (i : Instr) (s t : State), exec i s = .next t → i ≠ .rst → s.busy = true ∨ i.mnemonic ≠ "UNPACK" →
    t.sign_o = s.sign_o ∧ t.exp_o = s.exp_o ∧ t.sig_o = s.sig_o)

/-- The hidden registers change only at a MUL accept, an iteration edge and RST: every other edge leaves all of them. -/
def Obligations.HiddenRegistersHold : Prop :=
  ∀ (i : Instr) (s t : State), exec i s = .next t → i ≠ .rst → s.busy = false → i.mnemonic ≠ "MUL" →
    t.A = s.A ∧ t.Q = s.Q ∧ t.M = s.M ∧ t.Qp = s.Qp ∧ t.cnt = s.cnt ∧ t.busy = false ∧ t.inputs = s.inputs

/-- No command changes what the host is still to present: an edge takes exactly its own input vector (the list is the
model's, log entry 1). -/
def Obligations.StepTakesOneInputVector : Prop :=
  ∀ s t : State, step s = .next t → ∃ p, s.inputs = p :: t.inputs

/-! ### Programs -/

/-- A program's run does not depend on the state before the first reset: after its first line, which must be RST, the
state is the reset state. A program with another first line, or none, is refused: the model's choice (log entry 3), of
the two that the spec offers for the former (refuse it, or take RST first as a premise). -/
def Obligations.ProgramRunsFromReset : Prop :=
  (∀ (p : Ports) (rest : List Ports), p.rst = true →
    runProgram (p :: rest) = Host.Core.run core rest.length { State.reset with inputs := rest }) ∧
  (∀ (p : Ports) (rest : List Ports), p.rst = false → runProgram (p :: rest) = .refused .firstLineNotRst) ∧
  runProgram [] = .refused .firstLineNotRst

/-- Every program whose first line is RST runs to its end, and its observation is each output port showing its
register. -/
def Obligations.ProgramsRunToTheirEnd : Prop :=
  ∀ (p : Ports) (rest : List Ports), p.rst = true →
    ∃ t, runProgram (p :: rest) = .next t ∧ t.inputs = [] ∧ t.Consistent ∧
      ∃ o, observe (p :: rest) = some o ∧ o.busy = t.busy ∧ o.done = t.done ∧ o.result = t.result ∧
        o.sign_o = t.sign_o ∧ o.exp_o = t.exp_o ∧ o.sig_o = t.sig_o

/-- A host that resets first and then only counts its own edges, presenting no command for 16 edges after a MUL and
never reading `busy`, loses no command (70_reset_and_hazards.md, the handshake, issue distances and the host). Every
command is presented to a free core; it has its accepted effect, which is written out for each `op`; and a MUL with its
16 edges ends with the product. -/
def Obligations.SafeProgramsLoseNoCommand : Prop :=
  (∀ program : List Ports, spacedProgram program = true → safeProgram program = true) ∧
  (∀ (r p : Ports) (before after : List Ports), spacedProgram (r :: (before ++ p :: after)) = true →
    p.rst = false → p.start = true →
    ∃ t u, runProgram (r :: before) = .next t ∧ runProgram (r :: (before ++ [p])) = .next u ∧
      t = { State.reset.afterEdges before with inputs := [] } ∧ t.busy = false ∧
      (p.op = 0b00#2 → u =
        { t with M := p.a.extractLsb' 0 16, Q := p.b.extractLsb' 0 16, A := 0x0000#16, Qp := false, cnt := 16#5,
                 busy := true, done := false }) ∧
      (p.op = 0b01#2 → u =
        { t with sign_o := p.a.extractLsb' 31 1, exp_o := p.a.extractLsb' 23 8, sig_o := p.a.extractLsb' 0 23,
                 done := true }) ∧
      (p.op = 0b10#2 → u = { t with result := p.signI ++ p.expI ++ p.sigI, done := true }) ∧
      (p.op = 0b11#2 → u = { t with result := fdivF p.a p.b, done := true })) ∧
  (∀ (r p : Ports) (before waits after : List Ports),
    spacedProgram (r :: (before ++ p :: (waits ++ after))) = true →
    p.rst = false → p.start = true → p.op = 0b00#2 → waits.length = 16 → waits.all (fun q => !q.rst) = true →
    ∃ t, runProgram (r :: (before ++ p :: waits)) = .next t ∧ t.busy = false ∧ t.done = true ∧
      t.result = mulF (p.a.extractLsb' 0 16) (p.b.extractLsb' 0 16))

/-- WAITDONE: one IDLE for each iteration left and then `busy = 0`, whatever consistent state it starts in (log entry 10
says which of the spec's two sentences is followed); so MULW, where a MUL is accepted, is 17 edges. -/
def Obligations.WaitdoneRunsTheIterations : Prop :=
  (∀ s : State, s.Consistent → expandLine s .waitdone = List.replicate s.cnt.toNat (encodePorts .idle) ∧
    (s.afterEdges (expandLine s .waitdone)).busy = false) ∧
  (∀ (s : State) (x y : HalfArg), s.busy = false →
    expandLine s (.mulw x y) = mulLine x y :: List.replicate 16 (encodePorts .idle) ∧
    (s.afterEdges (expandLine s (.mulw x y))).result = mulF (halfBits x) (halfBits y))

/-- The operands of MUL lines: signed decimal drives the two's-complement bits of the number on bits 15..0 of the bus,
and hex its own bits; the high halves are 0. -/
def Obligations.MulLineDrivesTheOperands : Prop :=
  (∀ v : Int, (HalfArg.dec v).wf = true → (halfBits (.dec v)).toInt = v) ∧
  (∀ n : Nat, (HalfArg.hex n).wf = true → (halfBits (.hex n)).toNat = n) ∧
  (∀ x y : HalfArg, (mulLine x y).cw = 0b0100#4 ∧
    (mulLine x y).a.extractLsb' 0 16 = halfBits x ∧ (mulLine x y).a.extractLsb' 16 16 = 0#16 ∧
    (mulLine x y).b.extractLsb' 0 16 = halfBits y ∧ (mulLine x y).b.extractLsb' 16 16 = 0#16)

/-- A well-formed decimal literal names the binary32 pattern of its number: a finite pattern with that value. That a
literal may carry a minus sign, and that the sign is the pattern's sign bit also for the value 0, are the model's choices
(log entries 11 and 13). -/
def Obligations.LiteralNamesItsPattern : Prop :=
  ∀ (neg : Bool) (digits places e g : Nat), (WordArg.lit neg digits places).wf = true →
    e = ((wordBits (.lit neg digits places)).extractLsb' 23 8).toNat →
    g = ((wordBits (.lit neg digits places)).extractLsb' 0 23).toNat →
    (wordBits (.lit neg digits places)).getLsbD 31 = neg ∧ e ≤ 254 ∧
    (digits : ℚ) / 10 ^ places =
      if e = 0 then g * (2 : ℚ) ^ (-149 : Int) else (2 ^ 23 + g) * (2 : ℚ) ^ ((e : Int) - 150)
end

