-- ==== Sys2Proof/Laws/Word.lean ====
section
/-! SUPPORT. Vectors side by side, as numbers. -/

namespace Sys2Proof

/-- Two vectors side by side, as a number (`{x, y}` of 00_scope.md R9). -/
theorem append_toNat {n m : Nat} (x : BitVec n) (y : BitVec m) : (x ++ y).toNat = x.toNat * 2 ^ m + y.toNat := by
  rw [BitVec.toNat_append, ← Nat.shiftLeft_add_eq_or_of_lt y.isLt, Nat.shiftLeft_eq]

end Sys2Proof
end

