-- ==== Sys2Proof/Laws/Decode.lean ====
section
/-! SUPPORT. The small lemmas of the control word and of an input vector as one number. -/

namespace Sys2Proof

/-- The control word as a number (R71). -/
theorem cw_toNat (p : Ports) : p.cw.toNat = p.rst.toNat * 8 + p.start.toNat * 4 + p.op.toNat := by
  have h : p.cw.toNat = (BitVec.ofBool p.rst ++ BitVec.ofBool p.start).toNat * 2 ^ 2 + p.op.toNat :=
    append_toNat _ _
  rw [h, append_toNat, BitVec.toNat_ofBool, BitVec.toNat_ofBool]
  omega

/-- An input vector as a number (log entry 5). -/
theorem toBits_toNat (p : Ports) :
    p.toBits.toNat = p.cw.toNat + p.a.toNat * 2 ^ 4 + p.b.toNat * 2 ^ 36 + p.signI.toNat * 2 ^ 68
      + p.expI.toNat * 2 ^ 69 + p.sigI.toNat * 2 ^ 77 := by
  have h : p.toBits.toNat = (p.sigI ++ p.expI ++ p.signI ++ p.b ++ p.a).toNat * 2 ^ 4 + p.cw.toNat := append_toNat _ _
  rw [h, append_toNat, append_toNat, append_toNat, append_toNat]
  omega

@[simp] theorem decode_of_rst {p : Ports} (h : p.rst = true) : decode p = .rst := by simp [decode, h]

@[simp] theorem decode_of_idle {p : Ports} (hr : p.rst = false) (hs : p.start = false) : decode p = .idle := by
  simp [decode, hr, hs]

theorem decode_eq_rst {p : Ports} : decode p = .rst ↔ p.rst = true := by
  constructor
  · intro h
    by_contra hr
    simp only [decode, hr, if_false] at h
    repeat' split at h
    all_goals simp at h
  · exact decode_of_rst

end Sys2Proof
end

