-- ==== Sys2Proof/Laws/Divider.lean ====
section
/-! SUPPORT. The small lemmas of the codec's functions and of the divider's operands. -/

namespace Sys2Proof.Machine

@[simp] theorem decompose_sign (f : Word) : (decompose f).sign = f.extractLsb' 31 1 := rfl
@[simp] theorem decompose_exp (f : Word) : (decompose f).exp = f.extractLsb' 23 8 := rfl
@[simp] theorem decompose_sig (f : Word) : (decompose f).sig = f.extractLsb' 0 23 := rfl

/-- The three fields side by side, as a number (R131). -/
theorem compose_toNat (v : FloatFields) :
    (compose v).toNat = v.sign.toNat * 2 ^ 31 + v.exp.toNat * 2 ^ 23 + v.sig.toNat := by
  have h : (compose v).toNat = (v.sign ++ v.exp).toNat * 2 ^ 23 + v.sig.toNat := append_toNat _ _
  rw [h, append_toNat]
  omega

theorem isZero_iff (f : Word) : isZero f = true ↔ f.extractLsb' 0 31 = 0#31 := by simp [isZero]

/-- A true significand is its stored bits and 2^23 (R159). -/
theorem trueSig_toNat (sig : BitVec 23) : (trueSig sig).toNat = 2 ^ 23 + sig.toNat := by
  have h : sig.toNat < 2 ^ 23 := sig.isLt
  have hor := Nat.two_pow_add_eq_or_of_lt (i := 23) h 1
  simp only [trueSig, Config.implicitBit, BitVec.toNat_or, BitVec.toNat_setWidth]
  rw [Nat.mod_eq_of_lt (by omega), Nat.or_comm]
  simpa using hor.symm

theorem trueSig_ne_zero (sig : BitVec 23) : trueSig sig ≠ 0#64 := by
  intro h
  have := trueSig_toNat sig
  rw [h] at this
  simp at this
  omega

/-- The quotient on natural numbers (R159): the 64-bit datapath loses no bit. -/
theorem quotient_toNat (fa fb : BitVec 23) :
    (quotient fa fb).toNat = (2 ^ 23 + fa.toNat) * 2 ^ 23 / (2 ^ 23 + fb.toNat) := by
  have h := fa.isLt
  simp only [quotient, Config.shiftExt, BitVec.toNat_udiv, BitVec.toNat_shiftLeft, trueSig_toNat, Nat.shiftLeft_eq]
  rw [Nat.mod_eq_of_lt (by omega)]

/-- The candidate exponent is `ea − eb + 127` (R157). -/
theorem candidateExp_eq (ea eb : BitVec 8) : candidateExp ea eb = (ea.toNat : Int) - eb.toNat + 127 := by
  simp only [candidateExp, Config.bias]; omega

end Sys2Proof.Machine
end

