-- ==== Sys2Proof/Laws/State.lean ====
section
/-! SUPPORT. What each update of the state leaves in each field, so that no proof unfolds a record update. -/

namespace Sys2Proof.Machine.State

variable (s : State)

@[simp] theorem markStarted_busy : (s.markStarted).busy = true := rfl
@[simp] theorem markStarted_done : (s.markStarted).done = false := rfl
@[simp] theorem markStarted_cnt : (s.markStarted).cnt = s.cnt := rfl
@[simp] theorem markStarted_A : (s.markStarted).A = s.A := rfl
@[simp] theorem markStarted_Q : (s.markStarted).Q = s.Q := rfl
@[simp] theorem markStarted_M : (s.markStarted).M = s.M := rfl
@[simp] theorem markStarted_Qp : (s.markStarted).Qp = s.Qp := rfl
@[simp] theorem markStarted_result : (s.markStarted).result = s.result := rfl
@[simp] theorem markStarted_sign_o : (s.markStarted).sign_o = s.sign_o := rfl
@[simp] theorem markStarted_exp_o : (s.markStarted).exp_o = s.exp_o := rfl
@[simp] theorem markStarted_sig_o : (s.markStarted).sig_o = s.sig_o := rfl
@[simp] theorem markStarted_inputs : (s.markStarted).inputs = s.inputs := rfl

@[simp] theorem markCompleted_busy : (s.markCompleted).busy = false := rfl
@[simp] theorem markCompleted_done : (s.markCompleted).done = true := rfl
@[simp] theorem markCompleted_cnt : (s.markCompleted).cnt = s.cnt := rfl
@[simp] theorem markCompleted_A : (s.markCompleted).A = s.A := rfl
@[simp] theorem markCompleted_Q : (s.markCompleted).Q = s.Q := rfl
@[simp] theorem markCompleted_M : (s.markCompleted).M = s.M := rfl
@[simp] theorem markCompleted_Qp : (s.markCompleted).Qp = s.Qp := rfl
@[simp] theorem markCompleted_result : (s.markCompleted).result = s.result := rfl
@[simp] theorem markCompleted_sign_o : (s.markCompleted).sign_o = s.sign_o := rfl
@[simp] theorem markCompleted_exp_o : (s.markCompleted).exp_o = s.exp_o := rfl
@[simp] theorem markCompleted_sig_o : (s.markCompleted).sig_o = s.sig_o := rfl
@[simp] theorem markCompleted_inputs : (s.markCompleted).inputs = s.inputs := rfl

@[simp] theorem markDone_busy : (s.markDone).busy = s.busy := rfl
@[simp] theorem markDone_done : (s.markDone).done = true := rfl
@[simp] theorem markDone_cnt : (s.markDone).cnt = s.cnt := rfl
@[simp] theorem markDone_A : (s.markDone).A = s.A := rfl
@[simp] theorem markDone_Q : (s.markDone).Q = s.Q := rfl
@[simp] theorem markDone_M : (s.markDone).M = s.M := rfl
@[simp] theorem markDone_Qp : (s.markDone).Qp = s.Qp := rfl
@[simp] theorem markDone_result : (s.markDone).result = s.result := rfl
@[simp] theorem markDone_sign_o : (s.markDone).sign_o = s.sign_o := rfl
@[simp] theorem markDone_exp_o : (s.markDone).exp_o = s.exp_o := rfl
@[simp] theorem markDone_sig_o : (s.markDone).sig_o = s.sig_o := rfl
@[simp] theorem markDone_inputs : (s.markDone).inputs = s.inputs := rfl

@[simp] theorem toReset_busy : (s.toReset).busy = false := rfl
@[simp] theorem toReset_done : (s.toReset).done = false := rfl
@[simp] theorem toReset_cnt : (s.toReset).cnt = 0#5 := rfl
@[simp] theorem toReset_A : (s.toReset).A = 0#16 := rfl
@[simp] theorem toReset_Q : (s.toReset).Q = 0#16 := rfl
@[simp] theorem toReset_M : (s.toReset).M = 0#16 := rfl
@[simp] theorem toReset_Qp : (s.toReset).Qp = false := rfl
@[simp] theorem toReset_result : (s.toReset).result = 0#32 := rfl
@[simp] theorem toReset_sign_o : (s.toReset).sign_o = 0#1 := rfl
@[simp] theorem toReset_exp_o : (s.toReset).exp_o = 0#8 := rfl
@[simp] theorem toReset_sig_o : (s.toReset).sig_o = 0#23 := rfl
@[simp] theorem toReset_inputs : (s.toReset).inputs = s.inputs := rfl

@[simp] theorem writeResult_busy (r : Word) : (s.writeResult r).busy = s.busy := rfl
@[simp] theorem writeResult_done (r : Word) : (s.writeResult r).done = s.done := rfl
@[simp] theorem writeResult_cnt (r : Word) : (s.writeResult r).cnt = s.cnt := rfl
@[simp] theorem writeResult_A (r : Word) : (s.writeResult r).A = s.A := rfl
@[simp] theorem writeResult_Q (r : Word) : (s.writeResult r).Q = s.Q := rfl
@[simp] theorem writeResult_M (r : Word) : (s.writeResult r).M = s.M := rfl
@[simp] theorem writeResult_Qp (r : Word) : (s.writeResult r).Qp = s.Qp := rfl
@[simp] theorem writeResult_result (r : Word) : (s.writeResult r).result = r := rfl
@[simp] theorem writeResult_sign_o (r : Word) : (s.writeResult r).sign_o = s.sign_o := rfl
@[simp] theorem writeResult_exp_o (r : Word) : (s.writeResult r).exp_o = s.exp_o := rfl
@[simp] theorem writeResult_sig_o (r : Word) : (s.writeResult r).sig_o = s.sig_o := rfl
@[simp] theorem writeResult_inputs (r : Word) : (s.writeResult r).inputs = s.inputs := rfl

@[simp] theorem writeFields_busy (v : FloatFields) : (s.writeFields v).busy = s.busy := rfl
@[simp] theorem writeFields_done (v : FloatFields) : (s.writeFields v).done = s.done := rfl
@[simp] theorem writeFields_cnt (v : FloatFields) : (s.writeFields v).cnt = s.cnt := rfl
@[simp] theorem writeFields_A (v : FloatFields) : (s.writeFields v).A = s.A := rfl
@[simp] theorem writeFields_Q (v : FloatFields) : (s.writeFields v).Q = s.Q := rfl
@[simp] theorem writeFields_M (v : FloatFields) : (s.writeFields v).M = s.M := rfl
@[simp] theorem writeFields_Qp (v : FloatFields) : (s.writeFields v).Qp = s.Qp := rfl
@[simp] theorem writeFields_result (v : FloatFields) : (s.writeFields v).result = s.result := rfl
@[simp] theorem writeFields_sign_o (v : FloatFields) : (s.writeFields v).sign_o = v.sign := rfl
@[simp] theorem writeFields_exp_o (v : FloatFields) : (s.writeFields v).exp_o = v.exp := rfl
@[simp] theorem writeFields_sig_o (v : FloatFields) : (s.writeFields v).sig_o = v.sig := rfl
@[simp] theorem writeFields_inputs (v : FloatFields) : (s.writeFields v).inputs = s.inputs := rfl

@[simp] theorem loadBooth_busy (x y : Half) : (s.loadBooth x y).busy = s.busy := rfl
@[simp] theorem loadBooth_done (x y : Half) : (s.loadBooth x y).done = s.done := rfl
@[simp] theorem loadBooth_cnt (x y : Half) : (s.loadBooth x y).cnt = 16#5 := rfl
@[simp] theorem loadBooth_A (x y : Half) : (s.loadBooth x y).A = 0#16 := rfl
@[simp] theorem loadBooth_Q (x y : Half) : (s.loadBooth x y).Q = y := rfl
@[simp] theorem loadBooth_M (x y : Half) : (s.loadBooth x y).M = x := rfl
@[simp] theorem loadBooth_Qp (x y : Half) : (s.loadBooth x y).Qp = false := rfl
@[simp] theorem loadBooth_result (x y : Half) : (s.loadBooth x y).result = s.result := rfl
@[simp] theorem loadBooth_sign_o (x y : Half) : (s.loadBooth x y).sign_o = s.sign_o := rfl
@[simp] theorem loadBooth_exp_o (x y : Half) : (s.loadBooth x y).exp_o = s.exp_o := rfl
@[simp] theorem loadBooth_sig_o (x y : Half) : (s.loadBooth x y).sig_o = s.sig_o := rfl
@[simp] theorem loadBooth_inputs (x y : Half) : (s.loadBooth x y).inputs = s.inputs := rfl

@[simp] theorem writeBooth_busy (r : BoothRegs) : (s.writeBooth r).busy = s.busy := rfl
@[simp] theorem writeBooth_done (r : BoothRegs) : (s.writeBooth r).done = s.done := rfl
@[simp] theorem writeBooth_cnt (r : BoothRegs) : (s.writeBooth r).cnt = s.cnt := rfl
@[simp] theorem writeBooth_A (r : BoothRegs) : (s.writeBooth r).A = r.A := rfl
@[simp] theorem writeBooth_Q (r : BoothRegs) : (s.writeBooth r).Q = r.Q := rfl
@[simp] theorem writeBooth_M (r : BoothRegs) : (s.writeBooth r).M = s.M := rfl
@[simp] theorem writeBooth_Qp (r : BoothRegs) : (s.writeBooth r).Qp = r.Qp := rfl
@[simp] theorem writeBooth_result (r : BoothRegs) : (s.writeBooth r).result = s.result := rfl
@[simp] theorem writeBooth_sign_o (r : BoothRegs) : (s.writeBooth r).sign_o = s.sign_o := rfl
@[simp] theorem writeBooth_exp_o (r : BoothRegs) : (s.writeBooth r).exp_o = s.exp_o := rfl
@[simp] theorem writeBooth_sig_o (r : BoothRegs) : (s.writeBooth r).sig_o = s.sig_o := rfl
@[simp] theorem writeBooth_inputs (r : BoothRegs) : (s.writeBooth r).inputs = s.inputs := rfl

@[simp] theorem countDown_busy : (s.countDown).busy = s.busy := rfl
@[simp] theorem countDown_done : (s.countDown).done = s.done := rfl
@[simp] theorem countDown_cnt : (s.countDown).cnt = s.cnt - 1#5 := rfl
@[simp] theorem countDown_A : (s.countDown).A = s.A := rfl
@[simp] theorem countDown_Q : (s.countDown).Q = s.Q := rfl
@[simp] theorem countDown_M : (s.countDown).M = s.M := rfl
@[simp] theorem countDown_Qp : (s.countDown).Qp = s.Qp := rfl
@[simp] theorem countDown_result : (s.countDown).result = s.result := rfl
@[simp] theorem countDown_sign_o : (s.countDown).sign_o = s.sign_o := rfl
@[simp] theorem countDown_exp_o : (s.countDown).exp_o = s.exp_o := rfl
@[simp] theorem countDown_sig_o : (s.countDown).sig_o = s.sig_o := rfl
@[simp] theorem countDown_inputs : (s.countDown).inputs = s.inputs := rfl

@[simp] theorem boothRegs_A : s.boothRegs.A = s.A := rfl
@[simp] theorem boothRegs_Q : s.boothRegs.Q = s.Q := rfl
@[simp] theorem boothRegs_Qp : s.boothRegs.Qp = s.Qp := rfl
@[simp] theorem boothRegs_writeBooth (r : BoothRegs) : (s.writeBooth r).boothRegs = r := rfl
@[simp] theorem boothRegs_countDown : s.countDown.boothRegs = s.boothRegs := rfl

end Sys2Proof.Machine.State
end

