-- ==== Sys2Proof/Laws/Multiplier.lean ====
section
/-! SUPPORT. The small lemmas of the Booth iteration and of its repetition. -/

namespace Sys2Proof.Machine

@[simp] theorem boothSel_eq_add (q0 qp : Bool) : boothSel q0 qp = 0b01#2 ↔ q0 = false ∧ qp = true := by
  cases q0 <;> cases qp <;> decide

@[simp] theorem boothSel_eq_sub (q0 qp : Bool) : boothSel q0 qp = 0b10#2 ↔ q0 = true ∧ qp = false := by
  cases q0 <;> cases qp <;> decide

/-- `{A, Q}` as a number (R106). -/
theorem product_toNat (r : BoothRegs) : r.product.toNat = r.A.toNat * 2 ^ 16 + r.Q.toNat :=
  append_toNat _ _

/-- Q after an iteration, as a number: the carry in bit 15, over Q's upper 15 bits (R105). -/
theorem boothStep_Q_toNat (M : Half) (r : BoothRegs) :
    (boothStep M r).Q.toNat
      = ((boothAdd (boothSel (r.Q.getLsbD 0) r.Qp) r.A M).getLsbD 0).toNat * 2 ^ 15 + r.Q.toNat / 2 := by
  have h : (boothStep M r).Q.toNat
      = (BitVec.ofBool ((boothAdd (boothSel (r.Q.getLsbD 0) r.Qp) r.A M).getLsbD 0)).toNat * 2 ^ 15
        + (r.Q.extractLsb' 1 15).toNat := append_toNat _ _
  have hq : (r.Q.extractLsb' 1 15).toNat = r.Q.toNat / 2 := by
    have := r.Q.isLt
    simp only [BitVec.extractLsb'_toNat, Nat.shiftRight_eq_div_pow]
    omega
  rw [h, hq, BitVec.toNat_ofBool]

@[simp] theorem boothStep_A (M : Half) (r : BoothRegs) :
    (boothStep M r).A = (boothAdd (boothSel (r.Q.getLsbD 0) r.Qp) r.A M).sshiftRight 1 := rfl

@[simp] theorem boothStep_Qp (M : Half) (r : BoothRegs) : (boothStep M r).Qp = r.Q.getLsbD 0 := rfl

@[simp] theorem boothIters_zero (M : Half) (r : BoothRegs) : boothIters M 0 r = r := rfl

theorem boothIters_succ (M : Half) (n : Nat) (r : BoothRegs) :
    boothIters M (n + 1) r = boothIters M n (boothStep M r) := rfl

/-- An iteration more, taken last. -/
theorem boothIters_succ_last (M : Half) (n : Nat) (r : BoothRegs) :
    boothIters M (n + 1) r = boothStep M (boothIters M n r) := by
  induction n generalizing r with
  | zero => rfl
  | succ n ih => rw [boothIters_succ, ih, boothIters_succ]

@[simp] theorem boothRegs_loadBooth (x y : Half) (s : State) : (s.loadBooth x y).boothRegs = boothStart y := rfl

end Sys2Proof.Machine
end

