-- ==== Sys2Proof/Laws/Ops.lean ====
section
/-! SUPPORT. What the shared operations and `exec` can do, said once. -/

namespace Sys2Proof.Machine

theorem unlessBusy_of_busy {accept : State → State} {s : State} (h : s.busy = true) :
    unlessBusy accept s = .next s.iterate := by simp [unlessBusy, h]

theorem unlessBusy_of_not_busy {accept : State → State} {s : State} (h : s.busy = false) :
    unlessBusy accept s = .next (accept s) := by simp [unlessBusy, h]

namespace State

variable (s : State)

/-- An iteration edge that leaves iterations to run (R101). -/
theorem iterate_of_ne {s : State} (h : s.cnt ≠ 1#5) :
    s.iterate = (s.writeBooth (boothStep s.M s.boothRegs)).countDown := by simp [iterate, h]

/-- The iteration edge that completes the MUL (R106). -/
theorem iterate_of_eq {s : State} (h : s.cnt = 1#5) :
    s.iterate = (((s.writeBooth (boothStep s.M s.boothRegs)).countDown).writeResult
      (boothStep s.M s.boothRegs).product).markCompleted := by simp [iterate, h]

@[simp] theorem iterate_M : s.iterate.M = s.M := by unfold iterate; split <;> rfl
@[simp] theorem iterate_cnt : s.iterate.cnt = s.cnt - 1#5 := by unfold iterate; split <;> rfl
@[simp] theorem iterate_sign_o : s.iterate.sign_o = s.sign_o := by unfold iterate; split <;> rfl
@[simp] theorem iterate_exp_o : s.iterate.exp_o = s.exp_o := by unfold iterate; split <;> rfl
@[simp] theorem iterate_sig_o : s.iterate.sig_o = s.sig_o := by unfold iterate; split <;> rfl
@[simp] theorem iterate_inputs : s.iterate.inputs = s.inputs := by unfold iterate; split <;> rfl
@[simp] theorem iterate_boothRegs : s.iterate.boothRegs = boothStep s.M s.boothRegs := by
  unfold iterate; split <;> rfl

theorem iterate_busy : s.iterate.busy = if s.cnt = 1#5 then false else s.busy := by
  unfold iterate; split <;> rfl

theorem iterate_done : s.iterate.done = if s.cnt = 1#5 then true else s.done := by
  unfold iterate; split <;> rfl

theorem iterate_result :
    s.iterate.result = if s.cnt = 1#5 then (boothStep s.M s.boothRegs).product else s.result := by
  unfold iterate; split <;> rfl

end State

/-- The effect of an accepted command (R235). -/
def acceptEffect : Instr → State → State
  | .rst, s => s.toReset
  | .idle, s => s
  | .mul x y, s => (s.loadBooth x y).markStarted
  | .unpack f, s => (s.writeFields (decompose f)).markDone
  | .pack sgn e g, s => (s.writeResult (compose ⟨sgn, e, g⟩)).markDone
  | .fdiv f g, s => (s.writeResult (fdivF f g)).markDone

/-- Everything `exec` can do: RST and a command the core is free for have their own effect; every other edge is an
iteration edge. -/
theorem exec_eq (i : Instr) (s : State) :
    exec i s = .next (if i ≠ .rst ∧ s.busy = true then s.iterate else acceptEffect i s) := by
  cases i <;> cases h : s.busy <;> simp [exec, execRst, execIdle, execMul, execUnpack, execPack, execFdiv,
    acceptEffect, unlessBusy, h]

/-- The inversion of `exec`. -/
theorem exec_cases {i : Instr} {s t : State} (h : exec i s = .next t) :
    (i ≠ .rst ∧ s.busy = true ∧ t = s.iterate) ∨ ((i = .rst ∨ s.busy = false) ∧ t = acceptEffect i s) := by
  rw [exec_eq] at h
  injection h with h
  by_cases hb : i ≠ .rst ∧ s.busy = true
  · exact .inl ⟨hb.1, hb.2, by simpa [hb] using h.symm⟩
  · refine .inr ⟨?_, by rw [if_neg hb] at h; exact h.symm⟩
    by_cases hi : i = .rst
    · exact .inl hi
    · exact .inr (by simpa [hi] using hb)

theorem step_nil {s : State} (h : s.inputs = []) : step s = .refused .noEdgePresented := by
  unfold step; split <;> simp_all

theorem step_cons {s : State} {p : Ports} {later : List Ports} (h : s.inputs = p :: later) :
    step s = exec (decode p) { s with inputs := later } := by
  unfold step; split <;> simp_all

/-- The inversion of `step`. -/
theorem step_cases {s t : State} (h : step s = .next t) :
    ∃ p later, s.inputs = p :: later ∧ exec (decode p) { s with inputs := later } = .next t := by
  cases hs : s.inputs with
  | nil => rw [step_nil hs] at h; cases h
  | cons p later => exact ⟨p, later, rfl, by rw [← step_cons hs]; exact h⟩

end Sys2Proof.Machine
end

