-- ==== Sys2Proof/Laws/PerInstr.lean ====
section
/-! SUPPORT. Facts about every command as syntax, one lemma a constructor. Family `MatchesTableRow`: the control word
the encoder gives a command is accepted by its row of the command map (30_encoding.md R73), and by no other. -/

namespace Sys2Proof.Laws.MatchesTableRow

def Statement (i : Instr) : Prop :=
  (opcodeTable.filter (fun r => r.accepts (encodePorts i).cw)).map Row.mnemonic = [i.mnemonic]

theorem rst : Statement .rst := by unfold Statement; decide

theorem idle : Statement .idle := by unfold Statement; decide

theorem mul (x y : Half) : Statement (.mul x y) := by
  have h : (encodePorts (.mul x y)).cw = 0b0100#4 := by
    show BitVec.ofBool false ++ BitVec.ofBool true ++ 0b00#2 = _
    decide
  unfold Statement
  rw [h]
  simp only [Instr.mnemonic]
  decide

theorem unpack (f : Word) : Statement (.unpack f) := by
  have h : (encodePorts (.unpack f)).cw = 0b0101#4 := by
    show BitVec.ofBool false ++ BitVec.ofBool true ++ 0b01#2 = _
    decide
  unfold Statement
  rw [h]
  simp only [Instr.mnemonic]
  decide

theorem pack (s : BitVec 1) (e : BitVec 8) (g : BitVec 23) : Statement (.pack s e g) := by
  have h : (encodePorts (.pack s e g)).cw = 0b0110#4 := by
    show BitVec.ofBool false ++ BitVec.ofBool true ++ 0b10#2 = _
    decide
  unfold Statement
  rw [h]
  simp only [Instr.mnemonic]
  decide

theorem fdiv (f g : Word) : Statement (.fdiv f g) := by
  have h : (encodePorts (.fdiv f g)).cw = 0b0111#4 := by
    show BitVec.ofBool false ++ BitVec.ofBool true ++ 0b11#2 = _
    decide
  unfold Statement
  rw [h]
  simp only [Instr.mnemonic]
  decide

end Sys2Proof.Laws.MatchesTableRow
end

