-- ==== Sys2Proof/Laws/Program.lean ====
section
/-! SUPPORT. Runs: what an edge and a list of edges do, and that the list of input vectors still to come plays no part
in it. -/

namespace Sys2Proof.Machine

/-- What the host is still to present plays no part in an edge's effect. -/
theorem exec_inputs (i : Instr) (s : State) (later : List Ports) :
    exec i { s with inputs := later } =
      .next { (if i ≠ .rst ∧ s.busy = true then s.iterate else acceptEffect i s) with inputs := later } := by
  rw [exec_eq]
  by_cases h : i ≠ .rst ∧ s.busy = true
  · rw [if_pos h, if_pos h]
    by_cases hc : s.cnt = 1#5
    · rw [State.iterate_of_eq hc, State.iterate_of_eq (s := { s with inputs := later }) hc]; rfl
    · rw [State.iterate_of_ne hc, State.iterate_of_ne (s := { s with inputs := later }) hc]; rfl
  · rw [if_neg h, if_neg h]
    cases i <;> rfl

/-- An edge always answers a next state, the one `afterEdge` names. -/
theorem exec_decode (p : Ports) (s : State) : exec (decode p) s = .next (s.afterEdge p) := by
  unfold State.afterEdge
  rw [exec_eq]

/-- Everything one edge can do (R72): an iteration edge while busy, and otherwise the presented command's own effect. -/
theorem afterEdge_eq (p : Ports) (s : State) :
    s.afterEdge p = if decode p ≠ .rst ∧ s.busy = true then s.iterate else acceptEffect (decode p) s := by
  have h := (exec_decode p s).symm.trans (exec_eq (decode p) s)
  injection h

theorem afterEdge_of_rst {p : Ports} {s : State} (h : p.rst = true) : s.afterEdge p = s.toReset := by
  simp [afterEdge_eq, decode_of_rst h, acceptEffect]

theorem afterEdge_of_busy {p : Ports} {s : State} (hr : p.rst = false) (hb : s.busy = true) :
    s.afterEdge p = s.iterate := by
  simp [afterEdge_eq, decode_eq_rst, hr, hb]

theorem afterEdge_of_free {p : Ports} {s : State} (hb : s.busy = false) :
    s.afterEdge p = acceptEffect (decode p) s := by
  simp [afterEdge_eq, hb]

theorem afterEdge_inputs (p : Ports) (s : State) (later : List Ports) :
    State.afterEdge p { s with inputs := later } = { s.afterEdge p with inputs := later } := by
  have h := (exec_decode p { s with inputs := later }).symm.trans (exec_inputs (decode p) s later)
  have h' := (exec_decode p s).symm.trans (exec_eq (decode p) s)
  injection h with h
  injection h' with h'
  rw [h, h']

theorem step_presenting (s : State) (p : Ports) (later : List Ports) :
    step (s.presenting p later) = .next { s.afterEdge p with inputs := later } := by
  rw [step_cons (s := s.presenting p later) rfl, ← afterEdge_inputs]
  exact exec_decode p _

@[simp] theorem afterEdges_nil (s : State) : s.afterEdges [] = s := rfl

@[simp] theorem afterEdges_cons (p : Ports) (ps : List Ports) (s : State) :
    s.afterEdges (p :: ps) = (s.afterEdge p).afterEdges ps := rfl

theorem afterEdges_append (ps qs : List Ports) (s : State) :
    s.afterEdges (ps ++ qs) = (s.afterEdges ps).afterEdges qs := by
  simp [State.afterEdges]

theorem afterEdges_inputs (ps : List Ports) (s : State) (later : List Ports) :
    State.afterEdges ps { s with inputs := later } = { s.afterEdges ps with inputs := later } := by
  induction ps generalizing s with
  | nil => rfl
  | cons p ps ih => rw [afterEdges_cons, afterEdge_inputs, ih, afterEdges_cons]

/-- A run over presented edges is `afterEdges`, with the rest of the list still to come. -/
theorem run_presented (ps later : List Ports) (s : State) :
    Host.Core.run core ps.length { s with inputs := ps ++ later } =
      .next { s.afterEdges ps with inputs := later } := by
  induction ps generalizing s with
  | nil => rfl
  | cons p ps ih =>
    have h : Sys2Proof.core.step { s with inputs := p :: ps ++ later }
        = .next { s.afterEdge p with inputs := ps ++ later } := step_presenting s p (ps ++ later)
    simp only [List.length_cons, Host.Core.run, h, afterEdges_cons]
    exact ih (s.afterEdge p)

end Sys2Proof.Machine
end

