-- ==== Sys2Proof/Tests/Slice0.lean ====
section
/-! SUPPORT. The model's own tests, with results from spec/95_test_vectors.md or written out from the encoding tables,
and for each statement with hypotheses a state and operands that meet them. -/

namespace Sys2Proof.Tests

open Sys2Proof Sys2Proof.Machine

/-! ### Helpers -/

/-- The next state of an outcome. -/
def nextOf (o : Host.Outcome State Fault Refusal) : Option State :=
  match o with
  | .next s => some s
  | .fault r => nomatch r
  | .refused _ => none

/-- A multiplication at the edge with `c` iterations left. -/
def iterating (c : BitVec 5) : State := { State.reset with busy := true, cnt := c, result := 0x3F800000#32 }

/-- One iteration edge of L1.10: `busy = 1`, `cnt = 5`, and the registers shown. -/
def edgeOf (A Q M : Half) (Qp : Bool) : Option (BoothRegs × BitVec 5) :=
  (nextOf (exec .idle { iterating 5#5 with A := A, Q := Q, M := M, Qp := Qp })).map (fun t => (t.boothRegs, t.cnt))

/-! ### WellFormed: an ill-formed term for each check -/

theorem test_half_dec_range : (HalfArg.dec 32768).wf = false ∧ (HalfArg.dec (-32769)).wf = false ∧
    (HalfArg.dec (-32768)).wf = true := by decide

theorem test_half_hex_range : (HalfArg.hex 0x10000).wf = false ∧ (HalfArg.hex 0xFFFF).wf = true := by decide

theorem test_word_hex_range : (WordArg.hex 0x100000000).wf = false ∧ (WordArg.hex 0xFFFFFFFF).wf = true := by decide

/-- 0.1 and 2^24 + 1 are not representable; 30.0 is (R81). -/
theorem test_literal_exact : (WordArg.lit false 1 1).wf = false ∧ (WordArg.lit false 16777217 0).wf = false ∧
    (WordArg.lit false 300 1).wf = true := by decide

/-- 2^128 is too large (R81). -/
theorem test_literal_range : (WordArg.lit false (2 ^ 128) 0).wf = false := by decide

theorem test_line_mul : (Line.mul (.hex 0x10000) (.dec 1)).wf = false ∧ (Line.mul (.dec 1) (.hex 0x10000)).wf = false ∧
    (Line.mulw (.hex 0x10000) (.dec 1)).wf = false ∧ (Line.mulw (.dec 1) (.hex 0x10000)).wf = false := by decide

theorem test_line_word : (Line.unpack (.hex 0x100000000)).wf = false ∧
    (Line.fdiv (.hex 0x100000000) (.hex 0)).wf = false ∧ (Line.fdiv (.hex 0) (.hex 0x100000000)).wf = false := by decide

theorem test_line_pack : (Line.pack 2 0 0).wf = false ∧ (Line.pack 0 256 0).wf = false ∧
    (Line.pack 0 0 0x800000).wf = false ∧ (Line.pack 1 255 0x7FFFFF).wf = true := by decide

theorem test_line_idleN : (Line.idleN 0).wf = false ∧ (Line.idleN 1).wf = true := by decide

theorem test_canonical_control : ({ encodePorts .rst with start := true } : Ports).canonical = false ∧
    ({ encodePorts .rst with op := 1#2 } : Ports).canonical = false ∧
    ({ encodePorts .idle with op := 1#2 } : Ports).canonical = false ∧
    ({ encodePorts .idle with sigI := 1#23 } : Ports).canonical = false := by decide

theorem test_canonical_buses : ({ encodePorts (.mul 1#16 1#16) with a := 0x10000#32 } : Ports).canonical = false ∧
    ({ encodePorts (.unpack 1#32) with b := 1#32 } : Ports).canonical = false ∧
    ({ encodePorts (.pack 1#1 1#8 1#23) with a := 1#32 } : Ports).canonical = false ∧
    ({ encodePorts (.fdiv 1#32 1#32) with expI := 1#8 } : Ports).canonical = false := by decide

/-! ### Decode: a word of each row, written out from R71, R73 and the layout of log entry 5 -/

theorem test_decode_rst : decodeTableWord 8 0b1000 = some .rst ∧ decodeTableWord 8 0b1111 = some .rst := by decide

theorem test_decode_idle : decodeTableWord 8 0b0000 = some .idle ∧ decodeTableWord 8 0b0011 = some .idle := by decide

/-- L2.1: the high halves of the buses are ignored. -/
theorem test_decode_mul :
    decodeTableWord 104 (0b0100 + 0xABCDFF21 * 2 ^ 4 + 0x12340045 * 2 ^ 36) = some (.mul 0xFF21#16 0x0045#16) := by
  decide

theorem test_decode_unpack : decodeTableWord 104 (0b0101 + 0x41F00000 * 2 ^ 4) = some (.unpack 0x41F00000#32) := by
  decide

theorem test_decode_pack : decodeTableWord 104 (0b0110 + 1 * 2 ^ 68 + 131 * 2 ^ 69 + 0x700000 * 2 ^ 77)
    = some (.pack 1#1 131#8 0x700000#23) := by decide

theorem test_decode_fdiv : decodeTableWord 104 (0b0111 + 0x40F00000 * 2 ^ 4 + 0x3FC00000 * 2 ^ 36)
    = some (.fdiv 0x40F00000#32 0x3FC00000#32) := by decide

/-- No port carries bit 100. -/
theorem test_decode_too_wide : (match decodeWord (2 ^ 100) with
    | .ok _ => none
    | .error r => some r) = some DecodeReject.widerThanThePorts := by decide

/-- No two rows of the command map accept one control word. -/
theorem test_rows_disjoint :
    opcodeTable.Pairwise (fun r u => ∀ cw : BitVec 4, ¬ (r.accepts cw = true ∧ u.accepts cw = true)) := by decide

/-! ### Single steps -/

/-- R230's example: `RST` after a finished multiplication. -/
theorem test_rst : (nextOf (exec .rst { State.reset with done := true, result := 0xFFFFC3E5#32 })).map
    (fun t => (t.result, t.done)) = some (0x00000000#32, false) := by decide

/-- R233's example: `IDLE` after `PACK 0, 127, 0`. -/
theorem test_idle_holds : (nextOf (exec .idle { State.reset with done := true, result := 0x3F800000#32 })).map
    (fun t => (t.result, t.done)) = some (0x3F800000#32, true) := by decide

/-- L1.10, every row. -/
theorem test_iteration_rows :
    edgeOf 0x0004#16 0x0002#16 0x0003#16 false = some (⟨0x0002#16, 0x0001#16, false⟩, 4#5) ∧
    edgeOf 0x0004#16 0x0002#16 0x0003#16 true = some (⟨0x0003#16, 0x8001#16, false⟩, 4#5) ∧
    edgeOf 0x0004#16 0x0003#16 0x0003#16 false = some (⟨0x0000#16, 0x8001#16, true⟩, 4#5) ∧
    edgeOf 0x0004#16 0x0003#16 0x0003#16 true = some (⟨0x0002#16, 0x0001#16, true⟩, 4#5) ∧
    edgeOf 0x8000#16 0x0000#16 0x0000#16 false = some (⟨0xC000#16, 0x0000#16, false⟩, 4#5) ∧
    edgeOf 0x0001#16 0xFFFF#16 0x7FFF#16 true = some (⟨0x0000#16, 0xFFFF#16, true⟩, 4#5) := by decide

/-- R100's example: `MUL -223, 69`. -/
theorem test_mul_accept : (nextOf (exec (.mul 0xFF21#16 0x0045#16) State.reset)).map
    (fun t => (t.M, t.boothRegs, t.cnt, t.busy, t.done))
    = some (0xFF21#16, ⟨0x0000#16, 0x0045#16, false⟩, 16#5, true, false) := by decide

/-- L1.2, L2.1: exact products, and the negated ones of the multiplicand −32768. -/
theorem test_mul_function : mulF 0xFF21#16 0x0045#16 = 0xFFFFC3E5#32 ∧ mulF 0x7FFF#16 0x8000#16 = 0xC0008000#32 ∧
    mulF 0x8000#16 0x0001#16 = 0x00008000#32 ∧ mulF 0x8000#16 0x8000#16 = 0xC0000000#32 := by
  decide +kernel

/-- R130's example: `UNPACK 0x41F00000`. -/
theorem test_unpack : (nextOf (exec (.unpack 0x41F00000#32) State.reset)).map (fun t => (t.sign_o, t.exp_o, t.sig_o))
    = some (0#1, 0x83#8, 0x700000#23) := by decide

/-- L2.4: at `cnt = 1` an UNPACK is lost, and the last iteration runs. -/
theorem test_unpack_lost : (nextOf (exec (.unpack 0xFFFFFFFF#32) (iterating 1#5))).map
    (fun t => (t.busy, t.done, t.sig_o, t.cnt)) = some (false, true, 0x000000#23, 0#5) := by decide

/-- R131's example: `PACK 1, 131, 0x700000`. -/
theorem test_pack : (nextOf (exec (.pack 1#1 131#8 0x700000#23) State.reset)).map (fun t => t.result)
    = some 0xC1F00000#32 := by decide

/-- R150's example, 7.5 / 1.5, as the first command after reset. -/
theorem test_fdiv : (nextOf (step (State.reset.withFetchWord 104
      (0b0111 + 0x40F00000 * 2 ^ 4 + 0x3FC00000 * 2 ^ 36)))).map (fun t => (t.result, t.done, t.inputs))
    = some (0x40A00000#32, true, []) := by decide

/-- L1.5, L2.3: 30/1.5 = 20, 1/3 truncated, −0 / 5, NaN / 0, a premature infinity, the post-check, ∞/∞, and
1 / the smallest subnormal. -/
theorem test_fdiv_function : fdivF 0x41F00000#32 0x3FC00000#32 = 0x41A00000#32 ∧
    fdivF 0x3F800000#32 0x40400000#32 = 0x3EAAAAAA#32 ∧ fdivF 0x80000000#32 0x40A00000#32 = 0x00000000#32 ∧
    fdivF 0x7FC00000#32 0x00000000#32 = 0xFF800000#32 ∧ fdivF 0x7F000000#32 0x3F400000#32 = 0x7F800000#32 ∧
    fdivF 0x80800000#32 0x3FC00000#32 = 0x80000000#32 ∧ fdivF 0x7F800000#32 0x7F800000#32 = 0x3F800000#32 ∧
    fdivF 0x3F800000#32 0x00000001#32 = 0x7EFFFFFE#32 := by decide

/-- R152: 0/0 is `P_QNAN`, whatever it is. -/
theorem test_zero_by_zero : fdivF 0x00000000#32 0x80000000#32 = Config.qNan := rfl

/-- L3 P1's text lines (R81, R82), read as lines. -/
theorem test_read_lines :
    readLine ['M', 'U', 'L', ' ', '-', '2', '2', '3', ',', ' ', '6', '9'] = some [.mul (.dec (-223)) (.dec 69)] ∧
    readLine ['I', 'D', 'L', 'E', ' ', '5', ' ', ';', 'x'] = some [.idleN 5] ∧
    readLine [' ', ';', 'R', 'S', 'T'] = some [] ∧ readLine ['M', 'U', 'L', ' ', '1'] = none := by decide

/-- R81: `30.0f` names 0x41F00000. -/
theorem test_literal_pattern : (readWord ['3', '0', '.', '0', 'f']).map wordBits = some 0x41F00000#32 := by decide

/-! ### Witnesses: the hypotheses of each statement can be met, and each clause at the edges of its range -/

theorem witness_DecodeTableWord : decodeTableWord 8 0b0111 = some (.fdiv 0#32 0#32) := by decide

theorem witness_NothingPresented : State.reset.inputs = [] := rfl

theorem witness_SomethingPresented : (State.reset.presenting (encodePorts .idle) []).inputs ≠ [] := by decide

/-- The clauses of the command map at the ends of their control words. -/
theorem witness_CommandMap : (Ports.ofCW true false 0#2).cw &&& 0b1000#4 = 0b1000#4 ∧
    (Ports.ofCW true true 3#2).cw &&& 0b1000#4 = 0b1000#4 ∧ (Ports.ofCW false false 0#2).cw &&& 0b1100#4 = 0b0000#4 ∧
    (Ports.ofCW false false 3#2).cw &&& 0b1100#4 = 0b0000#4 ∧ (Ports.ofCW false true 0#2).cw = 0b0100#4 ∧
    (Ports.ofCW false true 1#2).cw = 0b0101#4 ∧ (Ports.ofCW false true 2#2).cw = 0b0110#4 ∧
    (Ports.ofCW false true 3#2).cw = 0b0111#4 := by decide

theorem witness_CommandMap_busy : (iterating 16#5).busy = true ∧
    (Ports.ofCW false true 3#2).cw &&& 0b1000#4 = 0b0000#4 := by decide

/-- Two vectors that differ only in bits MUL ignores. -/
theorem witness_NoControlWordIsIllegal : ∃ p q : Ports, p ≠ q ∧ (decode p).mnemonic = "MUL" ∧
    (decode p).mnemonic = (decode q).mnemonic ∧ p.a.extractLsb' 0 16 = q.a.extractLsb' 0 16 ∧
    p.b.extractLsb' 0 16 = q.b.extractLsb' 0 16 :=
  ⟨encodePorts (.mul 1#16 1#16), { encodePorts (.mul 1#16 1#16) with a := 0xABCD0001#32, sigI := 5#23 }, by decide⟩

/-- The same for the other commands' clauses of that statement. -/
theorem witness_NoControlWordIsIllegal_rest :
    (decode (encodePorts (.unpack 1#32))).mnemonic = "UNPACK" ∧
    (decode { encodePorts (.unpack 1#32) with b := 7#32 }).mnemonic = "UNPACK" ∧
    (decode (encodePorts (.pack 1#1 1#8 1#23))).mnemonic = "PACK" ∧
    (decode { encodePorts (.pack 1#1 1#8 1#23) with a := 7#32 }).mnemonic = "PACK" ∧
    (decode (encodePorts (.fdiv 1#32 1#32))).mnemonic = "FDIV" ∧
    (decode { encodePorts (.fdiv 1#32 1#32) with sigI := 7#23 }).mnemonic = "FDIV" := by decide

theorem witness_RstPorts : (Ports.ofCW true true 3#2).rst = true := rfl

theorem witness_RstTwice : ∃ s t : State, exec .rst s = .next t ∧ s ≠ t := ⟨iterating 9#5, State.reset, rfl, by decide⟩

/-- For MulAccept, UnpackWritesTheFields, PackWritesThePattern, FdivWritesTheQuotient, CodecRoundTrip, IdleChangesNothing,
MulAcceptStartsMultiplying: a core that is free and one that is not, and the ports of each command. -/
theorem witness_FreeAndBusy : State.reset.busy = false ∧ (iterating 1#5).busy = true ∧ (iterating 16#5).busy = true := by
  decide

/-- SingleEdgeCommandsComplete, for each `op` but MUL's. -/
theorem witness_SingleEdge : (Ports.ofCW false true 1#2).op ≠ 0b00#2 ∧ (Ports.ofCW false true 2#2).op ≠ 0b00#2 ∧
    (Ports.ofCW false true 3#2).op ≠ 0b00#2 ∧ (Ports.ofCW false true 3#2).rst = false := by decide

theorem witness_CommandPorts : (Ports.ofCW false false 3#2).rst = false ∧ (Ports.ofCW false false 3#2).start = false ∧
    (Ports.ofCW false true 0#2).start = true ∧ (Ports.ofCW false true 0#2).op = 0b00#2 ∧
    (Ports.ofCW false true 1#2).op = 0b01#2 ∧ (Ports.ofCW false true 2#2).op = 0b10#2 ∧
    (Ports.ofCW false true 3#2).op = 0b11#2 := by decide

/-- StepTakesTheFirstArm: one input vector and state for each arm. -/
theorem witness_StepTakesTheFirstArm :
    (Ports.ofCW true true 3#2).rst = true ∧ (iterating 1#5).busy = true ∧ (Ports.ofCW false true 3#2).rst = false ∧
    (Ports.ofCW false false 0#2).start = false ∧ (Ports.ofCW false true 3#2).op ≠ 0b10#2 := by decide

/-- StartWhileBusyIsLost and IterationEdge, away from the last iteration and at it. -/
theorem witness_StartWhileBusyIsLost : Instr.fdiv 0#32 0#32 ≠ .rst ∧ (iterating 16#5).busy = true ∧
    (iterating 16#5).cnt ≠ 1#5 ∧ (iterating 1#5).busy = true ∧ (iterating 1#5).cnt = 1#5 ∧
    (Ports.ofCW false true 3#2).rst = false := by decide

theorem witness_OnlyMulAndRstWriteM : ∃ s t : State, exec (.unpack 1#32) s = .next t ∧ s.busy = false ∧
    Instr.unpack 1#32 ≠ .rst ∧ (Instr.unpack 1#32).mnemonic ≠ "MUL" ∧ s ≠ t :=
  ⟨State.reset, _, rfl, by decide⟩

theorem witness_MulMeets : ∃ s t : State, exec (.mul 3#16 5#16) s = .next t ∧ s.busy = false :=
  ⟨State.reset, _, rfl, rfl⟩

/-- A multiplication of 3 by 5 with 16 iterations left. -/
theorem witness_IterationKeepsMultiplying : ∃ s t : State, s.Consistent ∧ s.Multiplying 3#16 5#16 ∧
    Instr.idle ≠ .rst ∧ exec .idle s = .next t ∧ s.cnt ≠ 1#5 :=
  ⟨{ iterating 16#5 with M := 3#16, Q := 5#16 }, _, by decide, by decide, by decide, rfl, by decide⟩

/-- The same with one iteration left: the registers after 15 iterations. -/
theorem witness_IterationKeepsMultiplying_last : ∃ s t : State, s.Consistent ∧ s.Multiplying 3#16 5#16 ∧
    Instr.idle ≠ .rst ∧ exec .idle s = .next t ∧ s.cnt = 1#5 :=
  ⟨{ iterating 1#5 with M := 3#16, A := (boothIters 3#16 15 (boothStart 5#16)).A,
                        Q := (boothIters 3#16 15 (boothStart 5#16)).Q,
                        Qp := (boothIters 3#16 15 (boothStart 5#16)).Qp }, _,
    by decide, by decide +kernel, by decide, rfl, by decide⟩

/-- NoPartialProductShows at 0 and 15 iteration edges, MulCompletesAfterSeventeenEdges at 16. -/
theorem witness_MulEdges : State.reset.busy = false ∧ decode (encodePorts (.mul 3#16 5#16)) = .mul 3#16 5#16 ∧
    (List.replicate 15 (encodePorts (.unpack 1#32))).all (fun q => !q.rst) = true ∧
    (List.replicate 15 (encodePorts (.unpack 1#32))).length < 16 ∧ ([] : List Ports).length < 16 ∧
    (List.replicate 16 (encodePorts .idle)).all (fun q => !q.rst) = true ∧
    (List.replicate 16 (encodePorts .idle)).length + 1 = Config.latMul := by decide

theorem witness_MulIsExact : (0x7FFF#16 : Half) ≠ 0x8000#16 ∧ (0x8001#16 : Half) ≠ 0x8000#16 := by decide

/-- Two different states, and two different lists of iteration edges. -/
theorem witness_ProductDependsOnOperandsOnly : ∃ (s u s' u' : State) (p q : Ports) (ps qs : List Ports),
    s ≠ u ∧ ps ≠ qs ∧ s.busy = false ∧ u.busy = false ∧ decode p = decode q ∧ (decode p).mnemonic = "MUL" ∧
    ps.all (fun r => !r.rst) = true ∧ qs.all (fun r => !r.rst) = true ∧ ps.length = 16 ∧ qs.length = 16 ∧
    Host.Core.run core 17 (s.presenting p ps) = .next s' ∧ Host.Core.run core 17 (u.presenting q qs) = .next u' :=
  ⟨State.reset, { State.reset with A := 7#16, done := true }, _, _, encodePorts (.mul 3#16 5#16),
    encodePorts (.mul 3#16 5#16), List.replicate 16 (encodePorts .idle), List.replicate 16 (encodePorts (.unpack 1#32)),
    by decide, by decide +kernel, rfl, rfl, rfl, by decide +kernel, by decide, by decide, rfl, rfl, rfl, rfl⟩

/-- NonzeroByZeroIsInfinity at the smallest subnormal, at +∞, at the first NaN, and at a negative number. -/
theorem witness_NonzeroByZero :
    [0x00000001#32, 0x7F800000#32, 0x7F800001#32, 0x80000001#32].all
      (fun a => a != 0x00000000#32 && a != 0x80000000#32) = true := by decide

/-- ZeroByZeroIsQNan: zeros of both signs, and a free core. -/
theorem witness_ZeroByZero : ∃ (a b : Word) (s : State), s.busy = false ∧ (a = 0x00000000#32 ∨ a = 0x80000000#32) ∧
    (b = 0x00000000#32 ∨ b = 0x80000000#32) ∧ a ≠ b :=
  ⟨0x00000000#32, 0x80000000#32, State.reset, by decide⟩

/-- ZeroByNonzeroIsPlusZero: a divisor that is no zero. -/
theorem witness_ZeroByNonzero : (0x00000001#32 : Word) ≠ 0x00000000#32 ∧ (0x00000001#32 : Word) ≠ 0x80000000#32 := by
  decide

/-- CandidateExponentBounds: nonzero operands whose candidate exponent is 255, 0, and between. -/
theorem witness_CandidateExponentBounds :
    (0x7F000000#32 : Word).extractLsb' 0 31 ≠ 0#31 ∧ (0x3F400000#32 : Word).extractLsb' 0 31 ≠ 0#31 ∧
    candidateExp ((0x7F000000#32 : Word).extractLsb' 23 8) ((0x3F400000#32 : Word).extractLsb' 23 8) = 255 ∧
    candidateExp ((0x3F800000#32 : Word).extractLsb' 23 8) ((0x7F7FFFFF#32 : Word).extractLsb' 23 8) = 0 := by decide

/-- InRangeQuotient at the candidate exponents 1 and 254, with either significand the smaller. -/
theorem witness_InRangeQuotient :
    (0x00800000#32 : Word).extractLsb' 0 31 ≠ 0#31 ∧ (0x3FC00000#32 : Word).extractLsb' 0 31 ≠ 0#31 ∧
    127 < 1 + 127 ∧ 1 + 127 < 127 + 255 ∧ 127 < 254 + 127 ∧ 254 + 127 < 127 + 255 ∧
    ((0x00800000#32 : Word).extractLsb' 0 23).toNat < ((0x3FC00000#32 : Word).extractLsb' 0 23).toNat ∧
    ((0x3F800000#32 : Word).extractLsb' 0 23).toNat ≤ ((0x7F7FFFFF#32 : Word).extractLsb' 0 23).toNat := by decide

theorem witness_PostCheck : ∃ (e0 : Int) (fa fb : BitVec 23), 1 ≤ e0 ∧ e0 ≤ 254 ∧ e0 = 1 ∧ fa.toNat < fb.toNat :=
  ⟨1, 0#23, 0x400000#23, by decide⟩

/-- FdivTruncates: 1/1 with equal significands, and 1/3, whose dividend significand is the smaller. -/
theorem witness_FdivTruncates :
    ((0x3F800000#32 : Word).extractLsb' 23 8).toNat = 127 ∧ ((0x40400000#32 : Word).extractLsb' 23 8).toNat = 128 ∧
    ((fdivF 0x3F800000#32 0x3F800000#32).extractLsb' 23 8).toNat = 127 ∧
    ((fdivF 0x3F800000#32 0x40400000#32).extractLsb' 23 8).toNat = 125 := by decide

theorem witness_FdivSigns : ¬ ((0x3F800000#32 : Word).extractLsb' 0 31 = 0#31 ∧
    (0x80000000#32 : Word).extractLsb' 0 31 = 0#31) := by decide

/-- FdivKnowsOnlyZeros: the ends of the normal exponents, and operands that are no normal numbers. -/
theorem witness_FdivKnowsOnlyZeros : (0x7F800000#32 : Word).extractLsb' 0 31 ≠ 0#31 ∧
    (0x00000001#32 : Word).extractLsb' 0 31 ≠ 0#31 ∧ ((0x00800000#32 : Word).extractLsb' 23 8).toNat = 1 ∧
    ((0x7F7FFFFF#32 : Word).extractLsb' 23 8).toNat = 254 := by decide

/-- StepKeepsConsistent: a consistent state, busy, that takes a step. -/
theorem witness_StepKeepsConsistent : ∃ s t : State, s.Consistent ∧ s.busy = true ∧ step s = .next t :=
  ⟨(iterating 16#5).presenting (encodePorts .idle) [], _, by decide, rfl, rfl⟩

/-- DoneChanges, ResultChanges, OutputIsolation and HiddenRegistersHold: every clause's command and state takes a
step. -/
theorem witness_StatusClauses : ∀ i ∈ [Instr.rst, .idle, .mul 3#16 5#16, .unpack 1#32, .pack 1#1 2#8 3#23,
      .fdiv 1#32 1#32], ∀ s ∈ [State.reset, iterating 1#5, iterating 2#5, iterating 16#5],
    (nextOf (exec i s)).isSome = true := by decide

theorem witness_ProgramStartsWithRst : (encodePorts .rst).rst = true ∧ (encodePorts .idle).rst = false := by decide

/-- WaitdoneRunsTheIterations: consistent states with 0, 1 and 16 iterations left. -/
theorem witness_Waitdone : State.reset.Consistent ∧ (iterating 1#5).Consistent ∧ (iterating 16#5).Consistent := by
  decide

/-- MulLineDrivesTheOperands at the ends of both ranges. -/
theorem witness_MulLine : (HalfArg.dec (-32768)).wf = true ∧ (HalfArg.dec 32767).wf = true ∧
    (HalfArg.hex 0).wf = true ∧ (HalfArg.hex 0xFFFF).wf = true := by decide

/-- LiteralNamesItsPattern: 0, the smallest subnormal and the largest finite number are literals. -/
theorem witness_Literal : (WordArg.lit true 0 0).wf = true ∧ (WordArg.lit false (5 ^ 149) 149).wf = true ∧
    (WordArg.lit false ((2 ^ 24 - 1) * 2 ^ 104) 0).wf = true := by decide

/-- SafeProgramsLoseNoCommand: spaced programs with a command of each kind after a completed MUL, and with a command
straight after one that takes a single edge. -/
theorem witness_SpacedProgram :
    [0#2, 1#2, 2#2, 3#2].all (fun op => spacedProgram (encodePorts .rst :: (encodePorts (.mul 3#16 5#16) ::
      List.replicate 16 (encodePorts .idle) ++ Ports.ofCW false true op :: []))) = true ∧
    spacedProgram (encodePorts .rst :: ([encodePorts (.pack 0#1 1#8 2#23)] ++ encodePorts (.unpack 1#32) :: [])) = true ∧
    (List.replicate 16 (encodePorts .idle)).all (fun q => !q.rst) = true := by decide

/-- One edge too few after a MUL, and no RST first, are not spaced; RST ends the wait. -/
theorem test_spaced_program :
    spacedProgram (encodePorts .rst :: encodePorts (.mul 3#16 5#16) ::
      List.replicate 15 (encodePorts .idle) ++ encodePorts (.unpack 1#32) :: []) = false ∧
    spacedProgram [encodePorts .idle] = false ∧
    spacedProgram [encodePorts .rst, encodePorts (.mul 3#16 5#16), encodePorts .rst, encodePorts (.unpack 1#32)] = true := by
  decide

/-- The clauses of FdivKnowsOnlyZeros over raw fields: NaN / 2.0 and ∞ / 2.0 have the candidate exponent 254, the largest
subnormal over 1.0 has 0, NaN over 1.0 has 255. -/
theorem witness_FdivRawFields :
    (0x7FC00000#32 : Word).extractLsb' 0 31 ≠ 0#31 ∧ (0x007FFFFF#32 : Word).extractLsb' 0 31 ≠ 0#31 ∧
    candidateExp ((0x7FC00000#32 : Word).extractLsb' 23 8) ((0x40000000#32 : Word).extractLsb' 23 8) = 254 ∧
    candidateExp ((0x007FFFFF#32 : Word).extractLsb' 23 8) ((0x3F800000#32 : Word).extractLsb' 23 8) = 0 ∧
    candidateExp ((0x7FC00000#32 : Word).extractLsb' 23 8) ((0x3F800000#32 : Word).extractLsb' 23 8) = 255 := by decide

/-- A safe program with a command after a command, one that waits, one that loses a command (R243), and one that does
not reset. -/
theorem witness_SafeProgram :
    safeProgram (encodePorts .rst :: ([encodePorts (.pack 0#1 1#8 2#23)] ++ encodePorts (.unpack 1#32) :: [])) = true ∧
    safeProgram [encodePorts .rst, encodePorts (.mul 3#16 5#16), encodePorts .idle] = true ∧
    safeProgram [encodePorts .rst, encodePorts (.mul 3#16 5#16), encodePorts (.unpack 1#32)] = false ∧
    safeProgram [encodePorts .idle] = false := by decide

end Sys2Proof.Tests
end

section
/-! PROOFS. Which edges write the state elements `M`, `done` and `result` (10_state.md R25, R30, R33). -/

namespace Sys2Proof

/-! ### The control word and the mnemonics -/

/-- The control word determines its three ports (R71). -/
theorem cw_inj {p q : Ports} : p.cw = q.cw ↔ p.rst = q.rst ∧ p.start = q.start ∧ p.op = q.op := by
  constructor
  · intro h
    have hnum := congrArg BitVec.toNat h
    rw [cw_toNat, cw_toNat] at hnum
    have hbool : Function.Injective Bool.toNat := Function.LeftInverse.injective Bool.ofNat_toNat
    have hp := p.op.isLt
    have hq := q.op.isLt
    have hps := p.start.toNat_le
    have hqs := q.start.toNat_le
    exact ⟨hbool (by omega), hbool (by omega), BitVec.eq_of_toNat_eq (by omega)⟩
  · rintro ⟨hr, hs, ho⟩
    rw [Ports.cw, Ports.cw, hr, hs, ho]

theorem decode_of_mul {p : Ports} (hr : p.rst = false) (hs : p.start = true) (ho : p.op = 0b00#2) :
    decode p = .mul (p.a.extractLsb' 0 16) (p.b.extractLsb' 0 16) := by simp [decode, hr, hs, ho]

theorem Instr.mnemonic_eq_mul {i : Instr} : i.mnemonic = "MUL" ↔ ∃ x y, i = .mul x y := by
  cases i <;> simp [mnemonic]

theorem Instr.mnemonic_eq_unpack {i : Instr} : i.mnemonic = "UNPACK" ↔ ∃ f, i = .unpack f := by
  cases i <;> simp [mnemonic]

theorem Instr.mnemonic_eq_pack {i : Instr} : i.mnemonic = "PACK" ↔ ∃ sgn e g, i = .pack sgn e g := by
  cases i <;> simp [mnemonic]

theorem Instr.mnemonic_eq_fdiv {i : Instr} : i.mnemonic = "FDIV" ↔ ∃ f g, i = .fdiv f g := by
  cases i <;> simp [mnemonic]

end Sys2Proof

namespace Sys2Proof.Machine

/-! ### The next state of each kind of edge -/

variable {i : Instr} {s t : State}

/-- `exec_eq` of a step that has been taken. -/
theorem next_eq (h : exec i s = .next t) :
    t = if i ≠ .rst ∧ s.busy = true then s.iterate else acceptEffect i s := by
  rw [exec_eq] at h
  injection h with h
  exact h.symm

theorem next_eq_iterate (h : exec i s = .next t) (hi : i ≠ .rst) (hb : s.busy = true) : t = s.iterate := by
  rw [next_eq h, if_pos ⟨hi, hb⟩]

theorem next_eq_acceptEffect (h : exec i s = .next t) (hb : s.busy = false) : t = acceptEffect i s := by
  rw [next_eq h, if_neg (by simp [hb])]

theorem next_eq_toReset (h : exec .rst s = .next t) : t = s.toReset := by
  rw [next_eq h, if_neg (by simp), acceptEffect]

/-- Of the accepted commands only MUL and RST write `M` (R25). -/
theorem acceptEffect_M (hr : i ≠ .rst) (hm : i.mnemonic ≠ "MUL") : (acceptEffect i s).M = s.M := by
  cases i with
  | rst => exact absurd rfl hr
  | mul x y => exact absurd rfl hm
  | idle | unpack | pack | fdiv => rfl

/-- The edge that completes a MUL writes `{A, Q}` as the edge itself leaves them (R106). -/
theorem iterate_result_of_last (hc : s.cnt = 1#5) : s.iterate.result = s.iterate.A ++ s.iterate.Q :=
  calc s.iterate.result = (boothStep s.M s.boothRegs).product := by rw [State.iterate_result, if_pos hc]
    _ = s.iterate.boothRegs.product := by rw [State.iterate_boothRegs]
    _ = s.iterate.A ++ s.iterate.Q := rfl

/-! ### The statements -/

/-- Settles O17: a lost command leaves `M` as every iteration edge does, and an accepted one by `acceptEffect_M`. -/
theorem onlyMulAndRstWriteM : Obligations.OnlyMulAndRstWriteM := by
  refine ⟨fun p hcw => ?_, fun x y s t hb h => ?_, fun s t h => ?_, fun i s t h hr hm => ?_⟩
  · obtain ⟨hrst, hstart, hop⟩ := (cw_inj (q := Ports.ofCW false true 0b00#2)).mp hcw
    exact decode_of_mul hrst hstart hop
  · rw [next_eq_acceptEffect h hb]
    rfl
  · rw [next_eq_toReset h]
    rfl
  · cases hb : s.busy with
    | true => rw [next_eq_iterate h hr hb, State.iterate_M]
    | false => rw [next_eq_acceptEffect h hb, acceptEffect_M hr (hm.resolve_left (by simp [hb]))]

/-- Settles O45: each kind of edge has one next state, whose `done` the state's laws give. -/
theorem doneChanges : Obligations.DoneChanges := by
  intro i s t h
  refine ⟨fun hi => ?rst, fun hi hb => ?iteration, fun hb hm => ?mul, fun hb hm => ?completing, fun hb hi => ?idle⟩
  case rst =>
    subst hi
    rw [next_eq_toReset h, State.toReset_done]
  case iteration => rw [next_eq_iterate h hi hb, State.iterate_done]
  case mul =>
    obtain ⟨x, y, rfl⟩ := Instr.mnemonic_eq_mul.mp hm
    rw [next_eq_acceptEffect h hb]
    rfl
  case completing =>
    rw [Instr.mnemonic_eq_unpack, Instr.mnemonic_eq_pack, Instr.mnemonic_eq_fdiv] at hm
    rw [next_eq_acceptEffect h hb]
    obtain ⟨f, rfl⟩ | ⟨sgn, e, g, rfl⟩ | ⟨f, g, rfl⟩ := hm <;> rfl
  case idle =>
    subst hi
    rw [next_eq_acceptEffect h hb]
    rfl

/-- Settles O46: the completing iteration edge by `iterate_result_of_last`, the accepted commands by their effects. -/
theorem resultChanges : Obligations.ResultChanges := by
  intro i s t h
  refine ⟨fun hi => ?rst, fun hi hb hc => ?last, fun hi hb hc => ?iteration, fun sgn e g hi hb => ?pack,
    fun f g hi hb => ?fdiv, fun hb hm => ?holding⟩
  case rst =>
    subst hi
    rw [next_eq_toReset h, State.toReset_result]
  case last => rw [next_eq_iterate h hi hb, iterate_result_of_last hc]
  case iteration => rw [next_eq_iterate h hi hb, State.iterate_result, if_neg hc]
  case pack =>
    subst hi
    rw [next_eq_acceptEffect h hb]
    rfl
  case fdiv =>
    subst hi
    rw [next_eq_acceptEffect h hb]
    rfl
  case holding =>
    rw [Instr.mnemonic_eq_mul, Instr.mnemonic_eq_unpack] at hm
    rw [next_eq_acceptEffect h hb]
    obtain rfl | ⟨x, y, rfl⟩ | ⟨f, rfl⟩ := hm <;> rfl

end Sys2Proof.Machine
end

section
/-! PROOFS. The command map and the arms of one edge (30_encoding.md R72, R73, R79). -/

namespace Sys2Proof

/-! ### The rows of the command map -/

/-- The control words `1---`. -/
theorem cw_and_eq_rst_iff (p : Ports) : p.cw &&& 0b1000#4 = 0b1000#4 ↔ p.rst = true := by
  have h : ∀ rst start op, (Ports.ofCW rst start op).cw &&& 0b1000#4 = 0b1000#4 ↔ rst = true := by decide
  exact h p.rst p.start p.op

/-- The control words `0---`, every one but RST's. -/
theorem cw_and_eq_zero_iff (p : Ports) : p.cw &&& 0b1000#4 = 0b0000#4 ↔ p.rst = false := by
  have h : ∀ rst start op, (Ports.ofCW rst start op).cw &&& 0b1000#4 = 0b0000#4 ↔ rst = false := by decide
  exact h p.rst p.start p.op

/-- The control words `00--`. -/
theorem cw_and_eq_idle_iff (p : Ports) : p.cw &&& 0b1100#4 = 0b0000#4 ↔ p.rst = false ∧ p.start = false := by
  have h : ∀ rst start op, (Ports.ofCW rst start op).cw &&& 0b1100#4 = 0b0000#4 ↔ rst = false ∧ start = false := by
    decide
  exact h p.rst p.start p.op

/-- One row and only one accepts each of the 16 control words, the buses being 0. -/
theorem rows_accepting_ofCW : ∀ rst start op,
    (opcodeTable.filter (fun r => r.accepts (Ports.ofCW rst start op).cw)).map Row.mnemonic
      = [(decode (Ports.ofCW rst start op)).mnemonic] := by decide

/-! ### The decoder's rows and operands -/

theorem decode_of_unpack {p : Ports} (hr : p.rst = false) (hs : p.start = true) (ho : p.op = 0b01#2) :
    decode p = .unpack p.a := by simp [decode, hr, hs, ho]

theorem decode_of_pack {p : Ports} (hr : p.rst = false) (hs : p.start = true) (ho : p.op = 0b10#2) :
    decode p = .pack p.signI p.expI p.sigI := by simp [decode, hr, hs, ho]

theorem decode_of_fdiv {p : Ports} (hr : p.rst = false) (hs : p.start = true) (ho : p.op = 0b11#2) :
    decode p = .fdiv p.a p.b := by simp [decode, hr, hs, ho]

/-- FDIV's `op` is what the other three commands leave (R72). -/
theorem op_eq_three_of_ne : ∀ op : BitVec 2, op ≠ 0b00#2 → op ≠ 0b01#2 → op ≠ 0b10#2 → op = 0b11#2 := by decide

/-- Which command it is depends on the control word alone, and not on the buses. -/
theorem decode_mnemonic_congr {p q : Ports} (h : p.cw = q.cw) : (decode p).mnemonic = (decode q).mnemonic := by
  obtain ⟨hrst, hstart, hop⟩ := cw_inj.mp h
  simp only [decode, hrst, hstart, hop]
  split_ifs <;> rfl

/-- The command's operands stand on the buses it reads (R74). -/
def Ports.Carries (p : Ports) : Instr → Prop
  | .rst => True
  | .idle => True
  | .mul x y => x = p.a.extractLsb' 0 16 ∧ y = p.b.extractLsb' 0 16
  | .unpack f => f = p.a
  | .pack s e g => s = p.signI ∧ e = p.expI ∧ g = p.sigI
  | .fdiv f g => f = p.a ∧ g = p.b

theorem carries_decode (p : Ports) : p.Carries (decode p) := by
  unfold decode
  split_ifs <;> simp [Ports.Carries]

theorem Instr.mnemonic_eq_rst {i : Instr} : i.mnemonic = "RST" ↔ i = .rst := by
  cases i <;> simp [mnemonic]

theorem Instr.mnemonic_eq_idle {i : Instr} : i.mnemonic = "IDLE" ↔ i = .idle := by
  cases i <;> simp [mnemonic]

end Sys2Proof

namespace Sys2Proof.Machine

/-! ### The arms of one edge -/

variable {i : Instr} {s : State} {p : Ports}

theorem step_presenting_eq_exec (s : State) (p : Ports) (later : List Ports) :
    step (s.presenting p later) = exec (decode p) { s with inputs := later } := step_cons rfl

/-- While busy, every command but RST gives the iteration edge that IDLE gives (R72). -/
theorem exec_eq_exec_idle_of_busy (hi : i ≠ .rst) (hb : s.busy = true) : exec i s = exec .idle s := by
  rw [exec_eq, exec_eq, if_pos ⟨hi, hb⟩, if_pos ⟨by decide, hb⟩]

theorem step_presenting_of_busy (later : List Ports) (hr : p.rst = false) (hb : s.busy = true) :
    step (s.presenting p later) = exec .idle { s with inputs := later } := by
  have hi : decode p ≠ .rst := by simp [decode_eq_rst, hr]
  rw [step_presenting_eq_exec]
  exact exec_eq_exec_idle_of_busy hi hb

/-! ### The statements -/

/-- Settles O5: the row by running the 16 control words, on which alone the mnemonic depends; the ignored bits because
the command's operands are the bus bits it reads. -/
theorem noControlWordIsIllegal : Obligations.NoControlWordIsIllegal := by
  refine ⟨fun p => ?rows, by decide, fun p q hmn hmul hunpack hpack hfdiv => ?ignored⟩
  case rows =>
    rw [decode_mnemonic_congr (p := p) (q := Ports.ofCW p.rst p.start p.op) rfl]
    exact rows_accepting_ofCW p.rst p.start p.op
  case ignored =>
    have hp := carries_decode p
    have hq := carries_decode q
    generalize decode p = i at *
    generalize decode q = j at *
    cases i with
    | rst => exact (Instr.mnemonic_eq_rst.mp hmn.symm).symm
    | idle => exact (Instr.mnemonic_eq_idle.mp hmn.symm).symm
    | mul x y =>
      obtain ⟨x', y', rfl⟩ := Instr.mnemonic_eq_mul.mp hmn.symm
      obtain ⟨rfl, rfl⟩ := hp
      obtain ⟨rfl, rfl⟩ := hq
      obtain ⟨ha, hb⟩ := hmul rfl
      rw [ha, hb]
    | unpack f =>
      obtain ⟨f', rfl⟩ := Instr.mnemonic_eq_unpack.mp hmn.symm
      rw [hp, hq, hunpack rfl]
    | pack sgn e g =>
      obtain ⟨sgn', e', g', rfl⟩ := Instr.mnemonic_eq_pack.mp hmn.symm
      obtain ⟨rfl, rfl, rfl⟩ := hp
      obtain ⟨rfl, rfl, rfl⟩ := hq
      obtain ⟨hs, he, hg⟩ := hpack rfl
      rw [hs, he, hg]
    | fdiv f g =>
      obtain ⟨f', g', rfl⟩ := Instr.mnemonic_eq_fdiv.mp hmn.symm
      obtain ⟨rfl, rfl⟩ := hp
      obtain ⟨rfl, rfl⟩ := hq
      obtain ⟨ha, hb⟩ := hfdiv rfl
      rw [ha, hb]

/-- Settles O4: each row fixes the ports the decoder tests, and a control word with `rst = 0` is not RST. -/
theorem commandMap : Obligations.CommandMap := by
  refine ⟨fun p => ⟨fun h => ?rst, fun h => ?idle, fun h => ?mul, fun h => ?unpack, fun h => ?pack, fun h => ?fdiv⟩,
    fun s p later hb h => step_presenting_of_busy later ((cw_and_eq_zero_iff p).mp h) hb⟩
  case rst => exact decode_of_rst ((cw_and_eq_rst_iff p).mp h)
  case idle =>
    obtain ⟨hrst, hstart⟩ := (cw_and_eq_idle_iff p).mp h
    exact decode_of_idle hrst hstart
  case mul =>
    obtain ⟨hrst, hstart, hop⟩ := (cw_inj (q := Ports.ofCW false true 0b00#2)).mp h
    exact decode_of_mul hrst hstart hop
  case unpack =>
    obtain ⟨hrst, hstart, hop⟩ := (cw_inj (q := Ports.ofCW false true 0b01#2)).mp h
    exact decode_of_unpack hrst hstart hop
  case pack =>
    obtain ⟨hrst, hstart, hop⟩ := (cw_inj (q := Ports.ofCW false true 0b10#2)).mp h
    exact decode_of_pack hrst hstart hop
  case fdiv =>
    obtain ⟨hrst, hstart, hop⟩ := (cw_inj (q := Ports.ofCW false true 0b11#2)).mp h
    exact decode_of_fdiv hrst hstart hop

/-- Settles O8, arm by arm: while busy by `step_presenting_of_busy`, and otherwise what the decoder reads. -/
theorem stepTakesTheFirstArm : Obligations.StepTakesTheFirstArm := by
  rintro s t p later rfl
  split_ifs with hrst hb hstart h0 h1 h2
  · rw [step_presenting_eq_exec, decode_of_rst hrst]
  · exact step_presenting_of_busy later (Bool.eq_false_of_not_eq_true hrst) hb
  all_goals rw [step_presenting_eq_exec]
  · rw [decode_of_idle (Bool.eq_false_of_not_eq_true hrst) hstart]
  all_goals
    replace hrst := Bool.eq_false_of_not_eq_true hrst
    replace hstart := Bool.eq_true_of_not_eq_false hstart
  · rw [decode_of_mul hrst hstart h0]
  · rw [decode_of_unpack hrst hstart h1]
  · rw [decode_of_pack hrst hstart h2]
  · rw [decode_of_fdiv hrst hstart (op_eq_three_of_ne p.op h0 h1 h2)]

end Sys2Proof.Machine
end

section
/-! PROOFS. One Booth iteration edge, register by register (40_booth_multiplier.md R101 to R106). -/

namespace Sys2Proof.Machine

/-! ### The registers after an iteration -/

/-- The selector's table (R102). -/
theorem boothAdd_boothSel (q0 qp : Bool) (A M : Half) :
    boothAdd (boothSel q0 qp) A M =
      match q0, qp with
      | false, false => A
      | false, true => A + M
      | true, false => A - M
      | true, true => A := by
  cases q0 <;> cases qp <;> rfl

theorem boothStep_Q (M : Half) (r : BoothRegs) :
    (boothStep M r).Q =
      BitVec.ofBool ((boothAdd (boothSel (r.Q.getLsbD 0) r.Qp) r.A M).getLsbD 0) ++ r.Q.extractLsb' 1 15 := rfl

/-- Q's low 15 bits are its old high 15 bits (R105). -/
theorem boothStep_Q_getLsbD {k : Nat} (hk : k < 15) (M : Half) (r : BoothRegs) :
    (boothStep M r).Q.getLsbD k = r.Q.getLsbD (k + 1) := by
  rw [boothStep_Q, BitVec.getLsbD_append, if_pos hk, BitVec.getLsbD_extractLsb', Nat.add_comm 1 k]
  simp [hk]

/-- The carry out of the updated accumulator enters Q at bit 15 (R103, R105). -/
theorem boothStep_Q_getLsbD_top (M : Half) (r : BoothRegs) :
    (boothStep M r).Q.getLsbD 15 = (boothAdd (boothSel (r.Q.getLsbD 0) r.Qp) r.A M).getLsbD 0 := by
  rw [boothStep_Q, BitVec.getLsbD_append, if_neg (Nat.lt_irrefl 15), BitVec.getLsbD_ofBool]
  simp

/-! ### The iteration edge as one update -/

/-- An iteration edge writes the Booth registers and `cnt`; only the last one writes `result`, `busy` and `done`. -/
theorem iterate_eq_update (s : State) :
    s.iterate =
      { s with
        A := (boothStep s.M s.boothRegs).A, Q := (boothStep s.M s.boothRegs).Q,
        Qp := (boothStep s.M s.boothRegs).Qp, cnt := s.cnt - 1#5,
        result := if s.cnt = 1#5 then (boothStep s.M s.boothRegs).product else s.result,
        busy := if s.cnt = 1#5 then false else s.busy,
        done := if s.cnt = 1#5 then true else s.done } := by
  by_cases hc : s.cnt = 1#5
  · simp only [State.iterate_of_eq hc, if_pos hc]
    rfl
  · simp only [State.iterate_of_ne hc, if_neg hc]
    rfl

/-! ### The statement -/

/-- Settles O15: a busy edge is `State.iterate`, whose registers are those of `boothStep`. -/
theorem iterationEdge : Obligations.IterationEdge := by
  intro i s hi hb
  refine ⟨boothAdd (boothSel (s.Q.getLsbD 0) s.Qp) s.A s.M, (boothStep s.M s.boothRegs).A,
    (boothStep s.M s.boothRegs).Q, boothAdd_boothSel _ _ _ _, boothStep_A _ _,
    fun k hk => boothStep_Q_getLsbD hk _ _, boothStep_Q_getLsbD_top _ _, ?next⟩
  case next =>
    rw [exec_eq, if_pos ⟨hi, hb⟩, iterate_eq_update]
    rfl

end Sys2Proof.Machine
end

section
/-! PROOFS. The field codec's two commands (41_field_codec.md R130, R131, R136). -/

namespace Sys2Proof.Machine

variable {s : State}

/-! ### The accepted commands, each as one update of the state -/

/-- A command that finds the core free has its own effect (R235). -/
theorem exec_of_free (i : Instr) (hb : s.busy = false) : exec i s = .next (acceptEffect i s) := by
  rw [exec_eq, if_neg (by simp [hb])]

/-- UNPACK writes the field registers and `done` only (R130). -/
theorem acceptEffect_unpack (f : Word) (s : State) :
    acceptEffect (.unpack f) s =
      { s with sign_o := f.extractLsb' 31 1, exp_o := f.extractLsb' 23 8, sig_o := f.extractLsb' 0 23,
               done := true } := rfl

/-- PACK writes `result` and `done` only (R131). -/
theorem acceptEffect_pack (sgn : BitVec 1) (e : BitVec 8) (g : BitVec 23) (s : State) :
    acceptEffect (.pack sgn e g) s = { s with result := sgn ++ e ++ g, done := true } := rfl

/-! ### The statements -/

/-- Settles O27: a free core accepts UNPACK, the decoder reads its pattern off `a`, and a busy core loses it. -/
theorem unpackWritesTheFields : Obligations.UnpackWritesTheFields := by
  refine ⟨fun f s hb => ?accepted, fun _ => decode_of_unpack, fun f s hb => ?lost⟩
  case accepted => rw [exec_of_free _ hb, acceptEffect_unpack]
  case lost => exact exec_eq_exec_idle_of_busy (by simp) hb

/-- Settles O28: a free core accepts PACK, the decoder reads its fields off their ports, and a busy core loses it. -/
theorem packWritesThePattern : Obligations.PackWritesThePattern := by
  refine ⟨fun sgn e g s hb => ?accepted, fun _ => decode_of_pack, fun sgn e g s hb => ?lost⟩
  case accepted => rw [exec_of_free _ hb, acceptEffect_pack]
  case lost => exact exec_eq_exec_idle_of_busy (by simp) hb

end Sys2Proof.Machine
end

section
/-! PROOFS. The divider's zero cases and its candidate exponent (42_fp_divider.md R151 to R158). -/

namespace Sys2Proof.Machine

variable {a b : Word} {s : State}

/-! ### The readings of an operand -/

/-- `is_zero` as the two patterns it admits (R13, D14). -/
theorem isZero_iff_eq {f : Word} : isZero f = true ↔ f = 0x00000000#32 ∨ f = 0x80000000#32 := by
  have hf := f.isLt
  simp only [isZero_iff, ← BitVec.toNat_inj, BitVec.extractLsb'_toNat, BitVec.toNat_ofNat, Nat.shiftRight_zero]
  omega

theorem isZero_eq_false {f : Word} (h0 : f ≠ 0x00000000#32) (h1 : f ≠ 0x80000000#32) : isZero f = false := by
  simp [← Bool.not_eq_true, isZero_iff_eq, h0, h1]

/-- `is_zero` reads the exponent and the significand and not the sign (R13). -/
theorem isZero_eq_false_iff {f : Word} : isZero f = false ↔ f.extractLsb' 0 31 ≠ 0#31 := by
  rw [← Bool.not_eq_true, isZero_iff]

/-- Of a nonzero pattern `is_pos` says that its sign is 0 and that it is no NaN (R13, D15). -/
theorem isPos_iff_of_not_isZero {f : Word} (h : isZero f = false) :
    isPos f = true ↔ f.getLsbD 31 = false ∧ ¬ (f.extractLsb' 23 8 = 0xFF#8 ∧ f.extractLsb' 0 23 ≠ 0#23) := by
  have hbit : ∀ x : BitVec 1, (x == 1#1) = false ↔ x = 0#1 := by decide
  rw [BitVec.getLsbD_eq_extractLsb', hbit]
  simp [isPos, isNan, h, imp_iff_not_or]

/-- `P_QNAN` is admissible, whatever the free bits are (R7). -/
theorem admissibleQNan_qNan : Config.admissibleQNan Config.qNan = true := by
  unfold Config.qNan
  split_ifs with h
  · exact h
  · decide

/-! ### The branches of `FDIV_F` -/

/-- `FDIV_F` of 0/0 (R152). -/
theorem fdivF_of_zero_zero (ha : isZero a = true) (hb : isZero b = true) : fdivF a b = Config.qNan := by
  simp [fdivF, divideWith, ha, hb]

/-- `FDIV_F` of a nonzero dividend over a zero (R153). -/
theorem fdivF_of_nonzero_zero (ha : isZero a = false) (hb : isZero b = true) :
    fdivF a b = if isPos a then infinity 0#1 else infinity 1#1 := by
  simp [fdivF, divideWith, ha, hb]

/-- `FDIV_F` of a zero dividend over anything but a zero (R154). -/
theorem fdivF_of_zero_nonzero (ha : isZero a = true) (hb : isZero b = false) : fdivF a b = 0x00000000#32 := by
  simp [fdivF, divideWith, ha, hb]

/-- `FDIV_F` of two nonzero operands divides their raw fields (R155, R168). -/
theorem fdivF_of_nonzero_nonzero (ha : isZero a = false) (hb : isZero b = false) :
    fdivF a b = divideFields (decompose a) (decompose b) := by
  simp [fdivF, divideWith, ha, hb]

/-! ### The bounds of an exponent -/

theorem boundExp_of_ge {e : Int} (h : e ≥ 255) (sgn : BitVec 1) (r : Word) : boundExp sgn e r = infinity sgn :=
  if_pos h

theorem boundExp_of_le {e : Int} (h : e ≤ 0) (sgn : BitVec 1) (r : Word) : boundExp sgn e r = signedZero sgn := by
  rw [boundExp, if_neg (by omega), if_pos h]

/-- A candidate exponent of 255 or more decides the quotient before the significands do (R158). -/
theorem divideFields_of_ge {v w : FloatFields} (h : candidateExp v.exp w.exp ≥ 255) :
    divideFields v w = infinity (v.sign ^^^ w.sign) :=
  boundExp_of_ge h _ _

/-- A candidate exponent of 0 or less decides the quotient before the significands do (R158). -/
theorem divideFields_of_le {v w : FloatFields} (h : candidateExp v.exp w.exp ≤ 0) :
    divideFields v w = signedZero (v.sign ^^^ w.sign) :=
  boundExp_of_le h _ _

/-! ### The command -/

/-- FDIV writes `result` and `done` only (R150). -/
theorem acceptEffect_fdiv (f g : Word) (s : State) :
    acceptEffect (.fdiv f g) s = { s with result := fdivF f g, done := true } := rfl

/-- An FDIV that finds the core free, its quotient known (R150). -/
theorem exec_fdiv_of_fdivF_eq {r : Word} (hs : s.busy = false) (h : fdivF a b = r) :
    exec (.fdiv a b) s = .next { s with result := r, done := true } := by
  rw [exec_of_free _ hs, acceptEffect_fdiv, h]

/-! ### The statements -/

/-- Settles O34: the first bound of `divideFields` decides, and its candidate exponent is `candidateExp_eq`'s. -/
theorem candidateExponentBounds : Obligations.CandidateExponentBounds := by
  intro a b s hs ha hb
  have hdiv := fdivF_of_nonzero_nonzero (isZero_eq_false_iff.mpr ha) (isZero_eq_false_iff.mpr hb)
  refine ⟨_, _, rfl, rfl, fun h => ?overflow, fun h => ?underflow⟩
  all_goals rw [← candidateExp_eq] at h
  case overflow => exact exec_fdiv_of_fdivF_eq hs (hdiv.trans (divideFields_of_ge h))
  case underflow => exact exec_fdiv_of_fdivF_eq hs (hdiv.trans (divideFields_of_le h))

/-- Settles O31: both operands are zeros, and `P_QNAN` has the two fields of an admissible pattern. -/
theorem zeroByZeroIsQNan : Obligations.ZeroByZeroIsQNan := by
  refine ⟨fun a b s hs ha hb => ?quotient, ?pattern⟩
  case quotient =>
    exact exec_fdiv_of_fdivF_eq hs (fdivF_of_zero_zero (isZero_iff_eq.mpr ha) (isZero_iff_eq.mpr hb))
  case pattern => simpa [Config.admissibleQNan] using admissibleQNan_qNan

/-- Settles O32: the sign of the infinity is `is_pos` of the dividend, read on its bits. -/
theorem nonzeroByZeroIsInfinity : Obligations.NonzeroByZeroIsInfinity := by
  intro a b s hs ha0 ha1 hb
  have ha := isZero_eq_false ha0 ha1
  refine exec_fdiv_of_fdivF_eq hs ?_
  rw [fdivF_of_nonzero_zero ha (isZero_iff_eq.mpr hb)]
  exact if_congr (isPos_iff_of_not_isZero ha) (by decide) (by decide)

/-- Settles O33: the dividend alone is a zero, and the signs are never read. -/
theorem zeroByNonzeroIsPlusZero : Obligations.ZeroByNonzeroIsPlusZero := by
  intro a b s hs ha hb0 hb1
  exact exec_fdiv_of_fdivF_eq hs (fdivF_of_zero_nonzero (isZero_iff_eq.mpr ha) (isZero_eq_false hb0 hb1))

end Sys2Proof.Machine
end

section
/-! PROOFS. No command faults and no presented edge is refused (60_exceptions.md R200). -/

namespace Sys2Proof.Machine

/-- Every command answers a next state, whatever the state (R200). -/
theorem exec_total (i : Instr) (s : State) : ∃ t, exec i s = .next t := ⟨_, exec_eq i s⟩

/-- Settles O9: `exec` is total by `exec_eq`, and a presented edge runs `exec` of what it decodes to. -/
theorem everyEdgeYieldsANextState : Obligations.EveryEdgeYieldsANextState := by
  refine ⟨exec_total, fun s hs => ?presented⟩
  case presented =>
    obtain ⟨p, later, hinputs⟩ := List.exists_cons_of_ne_nil hs
    rw [step_cons hinputs]
    exact exec_total (decode p) _

end Sys2Proof.Machine
end

section
/-! PROOFS. RST, IDLE, the commands lost while busy, and which outputs a command writes (70_reset_and_hazards.md R230
to R240). -/

namespace Sys2Proof.Machine

variable {i : Instr} {s : State} {p : Ports}

/-! ### The edges -/

/-- RST takes every state to the reset state (R230). -/
theorem exec_rst (s : State) : exec .rst s = .next s.toReset := by
  rw [exec_eq, if_neg (by simp), acceptEffect]

/-- The reset state keeps nothing but what the host is still to present. -/
theorem toReset_toReset (s : State) : s.toReset.toReset = s.toReset := rfl

/-- An edge with `rst = 1` answers the reset state, whatever the core was doing (R231). -/
theorem step_presenting_of_rst (later : List Ports) (hr : p.rst = true) :
    step (s.presenting p later) = .next { State.reset with inputs := later } := by
  rw [step_presenting, afterEdge_of_rst hr]
  rfl

/-- An edge with `rst = 0` while busy is the iteration edge, whatever command is presented (R72, R236). -/
theorem step_presenting_of_busy_eq_iterate (later : List Ports) (hb : s.busy = true) (hr : p.rst = false) :
    step (s.presenting p later) = .next { s.iterate with inputs := later } := by
  rw [step_presenting, afterEdge_of_busy hr hb]

/-! ### The field registers -/

/-- Of the accepted commands only UNPACK and RST write the field registers (R240). -/
theorem acceptEffect_fields (hr : i ≠ .rst) (hu : i.mnemonic ≠ "UNPACK") :
    (acceptEffect i s).sign_o = s.sign_o ∧ (acceptEffect i s).exp_o = s.exp_o ∧
      (acceptEffect i s).sig_o = s.sig_o := by
  cases i with
  | rst => exact absurd rfl hr
  | unpack f => exact absurd rfl hu
  | idle | mul | pack | fdiv => exact ⟨rfl, rfl, rfl⟩

/-! ### The statements -/

/-- Settles O10: RST is `State.toReset`, which is idempotent. -/
theorem rstSetsEveryElement : Obligations.RstSetsEveryElement := by
  refine ⟨fun p => decode_of_rst, exec_rst, fun s t h => ?again⟩
  case again => rw [next_eq_toReset h, exec_rst, toReset_toReset]

/-- Settles O11, by `step_presenting_of_rst`, which reads `rst` only. -/
theorem rstOverridesEverything : Obligations.RstOverridesEverything := by
  intro s p later hr
  exact ⟨_, step_presenting_of_rst later hr, rfl, rfl, rfl, rfl⟩

/-- Settles O12: a free core gives IDLE its own effect, which is none, and a busy core loses every command alike. -/
theorem idleChangesNothing : Obligations.IdleChangesNothing := by
  refine ⟨fun p => decode_of_idle, fun s hb => ?free, fun i s hi hb => ?busy⟩
  case free => rw [exec_of_free _ hb, acceptEffect]
  case busy => exact (exec_eq_exec_idle_of_busy hi hb).symm

/-- Settles O13: a busy edge with `rst = 0` is `State.iterate`, in which the presented command does not occur. -/
theorem startWhileBusyIsLost : Obligations.StartWhileBusyIsLost := by
  refine ⟨fun i s => exec_eq_exec_idle_of_busy, fun s p q later hb hp hq => ?alike, fun s p later hb hc hr => ?last⟩
  case alike =>
    rw [step_presenting_of_busy_eq_iterate later hb hp, step_presenting_of_busy_eq_iterate later hb hq]
  case last =>
    refine ⟨_, step_presenting_of_busy_eq_iterate later hb hr, ?_⟩
    simp [State.iterate_busy, State.iterate_done, hc]

/-- Settles O47: an accepted UNPACK writes no `result`; an iteration edge writes no field register, and nor does the
effect of an accepted command other than UNPACK. -/
theorem outputIsolation : Obligations.OutputIsolation := by
  refine ⟨fun f s t hb h => ?result, fun i s t h hr hkeep => ?fields⟩
  case result => rw [next_eq_acceptEffect h hb, acceptEffect_unpack]
  case fields =>
    obtain ⟨-, -, rfl⟩ | ⟨hacc, rfl⟩ := exec_cases h
    · exact ⟨s.iterate_sign_o, s.iterate_exp_o, s.iterate_sig_o⟩
    · have hfree : s.busy = false := hacc.resolve_left hr
      exact acceptEffect_fields hr (hkeep.resolve_left (by simp [hfree]))

end Sys2Proof.Machine
end

section
/-! PROOFS. The encoder against the decoder, and the layout of an input vector as one number (30_encoding.md R71 to R81,
log entry 5). -/

namespace Sys2Proof

/-! ### The layout of log entry 5 -/

/-- A bit as a digit of the number. -/
theorem toNat_getLsbD {n : Nat} (v : BitVec n) (k : Nat) : (v.getLsbD k).toNat = v.toNat / 2 ^ k % 2 :=
  Nat.toNat_testBit v.toNat k

/-- The control word of a number is its low four bits (R71). -/
theorem ofBits_cw_toNat (w : BitVec 100) : (Ports.ofBits w).cw.toNat = w.toNat % 2 ^ 4 := by
  rw [cw_toNat]
  simp only [Ports.ofBits, toNat_getLsbD, BitVec.extractLsb'_toNat, Nat.shiftRight_zero]
  omega

/-- The fields of a number, each at its place, are all of it. -/
theorem toBits_ofBits (w : BitVec 100) : (Ports.ofBits w).toBits = w := by
  apply BitVec.eq_of_toNat_eq
  have hw := w.isLt
  rw [toBits_toNat, ofBits_cw_toNat]
  simp only [Ports.ofBits, BitVec.extractLsb'_toNat, Nat.shiftRight_eq_div_pow]
  omega

/-- No two input vectors are one number: the fields do not overlap. -/
theorem toBits_injective : Function.Injective Ports.toBits := by
  intro p q h
  have hnum := congrArg BitVec.toNat h
  rw [toBits_toNat, toBits_toNat] at hnum
  have hpcw := p.cw.isLt
  have hqcw := q.cw.isLt
  have hpa := p.a.isLt
  have hqa := q.a.isLt
  have hpb := p.b.isLt
  have hqb := q.b.isLt
  have hpsign := p.signI.isLt
  have hqsign := q.signI.isLt
  have hpexp := p.expI.isLt
  have hqexp := q.expI.isLt
  have hcw : p.cw = q.cw := BitVec.eq_of_toNat_eq (by omega)
  have ha : p.a = q.a := BitVec.eq_of_toNat_eq (by omega)
  have hb : p.b = q.b := BitVec.eq_of_toNat_eq (by omega)
  have hsign : p.signI = q.signI := BitVec.eq_of_toNat_eq (by omega)
  have hexp : p.expI = q.expI := BitVec.eq_of_toNat_eq (by omega)
  have hsig : p.sigI = q.sigI := BitVec.eq_of_toNat_eq (by omega)
  obtain ⟨hrst, hstart, hop⟩ := cw_inj.mp hcw
  cases p
  cases q
  exact Ports.mk.injEq .. ▸ ⟨hrst, hstart, hop, ha, hb, hsign, hexp, hsig⟩

theorem ofBits_toBits (p : Ports) : Ports.ofBits p.toBits = p := toBits_injective (toBits_ofBits p.toBits)

/-! ### The encoder's input vector -/

/-- The low half of a bus whose high half is 0 is what a line drives on it (R75, R81). -/
theorem extractLsb'_setWidth_half (x : Half) : (x.setWidth 32).extractLsb' 0 16 = x := by
  rw [← BitVec.setWidth_eq_extractLsb' (by decide), BitVec.setWidth_setWidth_of_le _ (by decide), BitVec.setWidth_eq]

/-- The decoder reads the command from the vector that a program line drives for it. -/
theorem decode_encodePorts (i : Instr) : decode (encodePorts i) = i := by
  cases i with
  | mul x y =>
    rw [decode_of_mul rfl rfl rfl]
    simp only [encodePorts, extractLsb'_setWidth_half]
  | rst | idle | unpack | pack | fdiv => rfl

/-- A bus carries a half operand and nothing else exactly where its high half is 0. -/
theorem eq_setWidth_extractLsb'_iff (v : Word) :
    v = (v.extractLsb' 0 16).setWidth 32 ↔ v.extractLsb' 16 16 = 0#16 := by
  have hv := v.isLt
  simp only [← BitVec.toNat_inj, BitVec.toNat_setWidth, BitVec.extractLsb'_toNat, BitVec.toNat_ofNat,
    Nat.shiftRight_eq_div_pow]
  omega

/-! ### The statements -/

/-- Settles O1: the encoder's number is the layout of the command's own vector, which `decode_encodePorts` reads. -/
theorem decodeOfEncode : Obligations.DecodeOfEncode := by
  intro i
  rw [decodeWord, if_pos (encode i).isLt, BitVec.ofNat_toNat, BitVec.setWidth_eq, decodeBits, encode, ofBits_toBits,
    decode_encodePorts]

/-- Settles O3, by `ofBits_toBits` and `toBits_ofBits`. -/
theorem portLayoutIsABijection : Obligations.PortLayoutIsABijection := ⟨ofBits_toBits, toBits_ofBits⟩

/-- Settles O2, row by row of the decoder: the encoder drives the same control word and the same named buses, so what is
left to compare are the ports that the command does not name. -/
theorem encodeOfDecodeExactlyOnCanonical : Obligations.EncodeOfDecodeExactlyOnCanonical := by
  rintro ⟨rst, start, op, a, b, sgn, e, g⟩
  rw [eq_comm]
  simp only [decode, Ports.canonical]
  split_ifs with hrst hstart h0 h1 h2
  case neg =>
    obtain rfl := op_eq_three_of_ne op h0 h1 h2
    simp_all [encodePorts, Ports.ofCW, and_assoc]
  all_goals simp_all [encodePorts, Ports.ofCW, eq_setWidth_extractLsb'_iff, and_assoc]

/-- Settles O6, on the six words. -/
theorem sampleWordsDecode : Obligations.SampleWordsDecode := by
  unfold Obligations.SampleWordsDecode
  decide

end Sys2Proof
end

section
/-! PROOFS. The invariant of the status and the counter, and what one edge does to a core that is free (10_state.md R27
to R30; 40_booth_multiplier.md R100; 70_reset_and_hazards.md R235, R239). -/

namespace Sys2Proof.Machine

variable {i : Instr} {s t : State} {p : Ports}

/-! ### The invariant -/

/-- The count of a busy edge, as a number: iterations are left, so it does not wrap (R101). -/
theorem cnt_sub_one_toNat (hc : s.cnt ≠ 0#5) : (s.cnt - 1#5).toNat + 1 = s.cnt.toNat := by bv_omega

theorem iterate_consistent (h : s.Consistent) (hb : s.busy = true) : s.iterate.Consistent := by
  obtain ⟨hbusy, hcnt, hdone⟩ := h
  have hsub := cnt_sub_one_toNat (hbusy.mp hb)
  by_cases hc : s.cnt = 1#5
  · simp [State.Consistent, State.iterate_busy, hc]
  · have hleft : s.cnt - 1#5 ≠ 0#5 := by bv_omega
    refine ⟨?_, ?_, ?_⟩
    · simp [State.iterate_busy, hc, hb, hleft]
    · rw [State.iterate_cnt]
      omega
    · simp [State.iterate_done, hc, hdone hb]

/-- A MUL accept loads the 16 iterations that `busy` announces, and clears `done`, whatever the state was (R100). -/
theorem acceptEffect_mul_consistent (x y : Half) (s : State) : (acceptEffect (.mul x y) s).Consistent := by
  simp [State.Consistent, acceptEffect]

/-- RST and an accepted command keep the invariant: only MUL and RST write `busy` and `cnt`. -/
theorem acceptEffect_consistent (h : s.Consistent) (hacc : i = .rst ∨ s.busy = false) :
    (acceptEffect i s).Consistent := by
  cases i with
  | rst => simp [State.Consistent, acceptEffect]
  | mul x y => exact acceptEffect_mul_consistent x y s
  | idle => exact h
  | unpack | pack | fdiv =>
    have hb : s.busy = false := by simpa using hacc
    obtain ⟨hbusy, hcnt, -⟩ := h
    exact ⟨hbusy, hcnt, by simp [acceptEffect, hb]⟩

/-- Every command keeps the invariant, accepted or lost. -/
theorem exec_consistent (h : s.Consistent) (ht : exec i s = .next t) : t.Consistent := by
  obtain ⟨-, hb, rfl⟩ | ⟨hacc, rfl⟩ := exec_cases ht
  · exact iterate_consistent h hb
  · exact acceptEffect_consistent h hacc

theorem afterEdge_consistent (p : Ports) (h : s.Consistent) : (s.afterEdge p).Consistent :=
  exec_consistent h (exec_decode p s)

theorem afterEdges_consistent (ps : List Ports) (h : s.Consistent) : (s.afterEdges ps).Consistent := by
  induction ps generalizing s with
  | nil => exact h
  | cons p ps ih => exact ih (afterEdge_consistent p h)

theorem reset_consistent : State.reset.Consistent := by decide

/-- A consistent core with no iteration left is free, and its counter is 0. -/
theorem cnt_eq_zero_of_free (h : s.Consistent) (hb : s.busy = false) : s.cnt = 0#5 := by
  obtain ⟨hbusy, -, -⟩ := h
  simpa [hb] using hbusy

/-! ### Accepted commands that complete at their edge -/

/-- Of the accepted commands only MUL and RST write the Booth registers, `cnt` and `busy` (R29, R37). -/
theorem acceptEffect_booth (hr : i ≠ .rst) (hm : i.mnemonic ≠ "MUL") :
    (acceptEffect i s).boothRegs = s.boothRegs ∧ (acceptEffect i s).cnt = s.cnt ∧
      (acceptEffect i s).busy = s.busy := by
  cases i with
  | rst => exact absurd rfl hr
  | mul x y => exact absurd rfl hm
  | idle | unpack | pack | fdiv => exact ⟨rfl, rfl, rfl⟩

theorem acceptEffect_inputs (i : Instr) (s : State) : (acceptEffect i s).inputs = s.inputs := by
  cases i <;> rfl

/-- A command other than MUL, presented with `start`, sets `done` at its edge (R30). -/
theorem acceptEffect_done (hr : p.rst = false) (hs : p.start = true) (ho : p.op ≠ 0b00#2) :
    (acceptEffect (decode p) s).done = true := by
  by_cases h1 : p.op = 0b01#2
  · rw [decode_of_unpack hr hs h1]
    rfl
  · by_cases h2 : p.op = 0b10#2
    · rw [decode_of_pack hr hs h2]
      rfl
    · rw [decode_of_fdiv hr hs (op_eq_three_of_ne p.op ho h1 h2)]
      rfl

/-- The control word of MUL (R73). -/
theorem decode_mnemonic_eq_mul_iff :
    (decode p).mnemonic = "MUL" ↔ p.rst = false ∧ p.start = true ∧ p.op = 0b00#2 := by
  unfold decode
  split_ifs <;> simp_all [Instr.mnemonic]

/-- The accept edge of MUL as one update (R100). -/
theorem acceptEffect_mul (x y : Half) (s : State) :
    acceptEffect (.mul x y) s =
      { s with M := x, Q := y, A := 0x0000#16, Qp := false, cnt := 16#5, busy := true, done := false } := rfl

/-! ### The codec's round trips -/

/-- The three fields of a pattern, side by side again, are the pattern (R130, R131). -/
theorem compose_decompose (f : Word) : compose (decompose f) = f := by
  have hf := f.isLt
  apply BitVec.eq_of_toNat_eq
  rw [compose_toNat]
  simp only [decompose_sign, decompose_exp, decompose_sig, BitVec.extractLsb'_toNat, Nat.shiftRight_eq_div_pow]
  omega

/-- No field of a composed pattern reaches into another (R131). -/
theorem decompose_compose (v : FloatFields) : decompose (compose v) = v := by
  have hsign := v.sign.isLt
  have hexp := v.exp.isLt
  have hsig := v.sig.isLt
  have hslice {k n : Nat} {u : BitVec n} (h : (compose v).toNat / 2 ^ k % 2 ^ n = u.toNat) :
      (compose v).extractLsb' k n = u := by
    apply BitVec.eq_of_toNat_eq
    rw [BitVec.extractLsb'_toNat, Nat.shiftRight_eq_div_pow, h]
  rw [compose_toNat] at hslice
  rw [decompose, hslice (u := v.sign) (by omega), hslice (u := v.exp) (by omega), hslice (u := v.sig) (by omega)]

/-! ### The statements -/

/-- Settles O43, on the eleven reset values. -/
theorem resetIsConsistent : Obligations.ResetIsConsistent := reset_consistent

/-- Settles O44: a step is the decoded command's `exec`, which keeps the invariant. -/
theorem stepKeepsConsistent : Obligations.StepKeepsConsistent := by
  intro s t h hstep
  obtain ⟨p, later, -, hexec⟩ := step_cases hstep
  have hlater : ({ s with inputs := later } : State).Consistent := h
  exact exec_consistent hlater hexec

/-- Settles O49: no command writes what is still to be presented, so the edge takes its own vector only. -/
theorem stepTakesOneInputVector : Obligations.StepTakesOneInputVector := by
  intro s t hstep
  obtain ⟨p, later, hs, hexec⟩ := step_cases hstep
  refine ⟨p, ?_⟩
  obtain ⟨-, -, rfl⟩ | ⟨-, rfl⟩ := exec_cases hexec
  · rw [hs, State.iterate_inputs]
  · rw [hs, acceptEffect_inputs]

/-- Settles O48: the command is accepted, and by `acceptEffect_booth` only MUL and RST touch these registers. -/
theorem hiddenRegistersHold : Obligations.HiddenRegistersHold := by
  intro i s t h hr hb hm
  obtain ⟨hregs, hcnt, hbusy⟩ := acceptEffect_booth (s := s) hr hm
  have hM := acceptEffect_M (s := s) hr hm
  rw [next_eq_acceptEffect h hb]
  exact ⟨congrArg BoothRegs.A hregs, congrArg BoothRegs.Q hregs, hM, congrArg BoothRegs.Qp hregs, hcnt,
    hbusy.trans hb, acceptEffect_inputs i s⟩

/-- Settles O42: the edge accepts the command, which sets `done` and leaves `busy`. -/
theorem singleEdgeCommandsComplete : Obligations.SingleEdgeCommandsComplete := by
  intro s p later hb hr hs ho
  have hne : decode p ≠ .rst := by simp [decode_eq_rst, hr]
  have hmn : (decode p).mnemonic ≠ "MUL" := by simp [decode_mnemonic_eq_mul_iff, ho]
  obtain ⟨-, -, hbusy⟩ := acceptEffect_booth (s := s) hne hmn
  refine ⟨_, run_presented [p] later s, ?_, ?_, rfl⟩
  · simp only [afterEdges_cons, afterEdges_nil, afterEdge_of_free hb, acceptEffect_done hr hs ho]
  · simp only [afterEdges_cons, afterEdges_nil, afterEdge_of_free hb, hbusy, hb]

/-- Settles O7: the second clause is the first, a table word's vector being what `withFetchWord` presents. -/
theorem stepRunsTheDecodedCommand : Obligations.StepRunsTheDecodedCommand := by
  refine ⟨step_presenting_eq_exec, fun s nbits w i h => ?word, fun s => step_nil⟩
  case word =>
    have hdec : decode (Ports.ofTableWord nbits w) = i := by
      unfold decodeTableWord decodeWord at h
      split_ifs at h
      simpa [decodeBits, Ports.ofTableWord] using h
    rw [← hdec]
    exact step_presenting_eq_exec s _ s.inputs

/-- Settles O14: a free core accepts MUL, the decoder reads its operands off the low halves of the buses, and a busy
core loses it. -/
theorem mulAccept : Obligations.MulAccept := by
  refine ⟨fun x y s hb => ?accepted, fun _ => decode_of_mul, fun x y s hb => ?lost⟩
  case accepted => rw [exec_of_free _ hb, acceptEffect_mul]
  case lost => exact exec_eq_exec_idle_of_busy (by simp) hb

/-- Settles O30: a free core accepts FDIV, the decoder reads its operands off `a` and `b`, and a busy core loses it. -/
theorem fdivWritesTheQuotient : Obligations.FdivWritesTheQuotient := by
  refine ⟨fun f g s hb => ?accepted, fun _ => decode_of_fdiv, fun f g s hb => ?lost⟩
  case accepted => exact exec_fdiv_of_fdivF_eq hb rfl
  case lost => exact exec_eq_exec_idle_of_busy (by simp) hb

/-- Settles O29: both commands are accepted, and `compose` and `decompose` undo one another. -/
theorem codecRoundTrip : Obligations.CodecRoundTrip := by
  refine ⟨fun v s hb => ?unpackPack, fun sgn e g s hb => ?packUnpack⟩
  case unpackPack =>
    exact ⟨_, _, exec_of_free _ hb, exec_of_free _ hb, compose_decompose v⟩
  case packUnpack =>
    refine ⟨_, _, exec_of_free _ hb, exec_of_free _ hb, ?_⟩
    have h := decompose_compose ⟨sgn, e, g⟩
    exact ⟨congrArg FloatFields.sign h, congrArg FloatFields.exp h, congrArg FloatFields.sig h⟩

end Sys2Proof.Machine
end

section
/-! PROOFS. The product that 16 Booth iterations leave, on integers (40_booth_multiplier.md R102 to R109). -/

namespace Sys2Proof.Machine

variable {m : Int} {y : Half} {k : Nat} {r : BoothRegs}

/-! ### One iteration on integers -/

/-- `{A, Q}` as a signed number (R106). -/
theorem product_toInt (r : BoothRegs) : r.product.toInt = r.A.toInt * 2 ^ 16 + r.Q.toNat := by
  rw [BoothRegs.product, BitVec.toInt_append, if_neg (by decide), Int.mul_comm]

/-- The pair after an iteration: the updated accumulator and Q as one number, halved (R105). -/
theorem boothStep_product_toInt (M : Half) (r : BoothRegs) :
    (boothStep M r).product.toInt
      = ((boothAdd (boothSel (r.Q.getLsbD 0) r.Qp) r.A M).toInt * 2 ^ 16 + r.Q.toNat) / 2 := by
  rw [product_toInt, boothStep_Q_toNat, boothStep_A, BitVec.toInt_sshiftRight, Int.shiftRight_eq_div_pow, toNat_getLsbD]
  generalize boothAdd (boothSel (r.Q.getLsbD 0) r.Qp) r.A M = A1
  have hA1 := BitVec.toInt_eq_toNat_cond A1
  split_ifs at hA1 <;> omega

/-- Where the accumulator stands before an iteration by the multiplicand `m`: it has the sign of the multiplier bits
taken so far times `m`, and is no larger than `m`. So no add or subtract of `m` leaves 16 bits. -/
def AccumulatorBound (m : Int) (r : BoothRegs) : Prop :=
  if 0 < m then -(m * r.Qp.toNat) ≤ r.A.toInt ∧ r.A.toInt < m - m * r.Qp.toNat
  else m - m * r.Qp.toNat ≤ r.A.toInt ∧ r.A.toInt ≤ -(m * r.Qp.toNat)

/-- Step 2 adds `m`, subtracts it or does nothing, without wrapping (R102). -/
theorem boothAdd_toInt (hlo : -32768 < m) (hhi : m ≤ 32768) (h : AccumulatorBound m r) (q0 : Bool) :
    (boothAdd (boothSel q0 r.Qp) r.A (BitVec.ofInt 16 m)).toInt
      = r.A.toInt + m * r.Qp.toNat - m * q0.toNat := by
  rw [boothAdd_boothSel]
  unfold AccumulatorBound at h
  cases hQp : r.Qp <;> cases q0
  all_goals
    simp only [hQp, Bool.toNat_false, Bool.toNat_true] at h ⊢
  · simp
  · rw [BitVec.toInt_sub, BitVec.toInt_ofInt, Int.sub_bmod_bmod, Int.bmod_eq_of_le] <;> split_ifs at h <;> omega
  · rw [BitVec.toInt_add, BitVec.toInt_ofInt, Int.add_bmod_bmod, Int.bmod_eq_of_le] <;> split_ifs at h <;> omega
  · simp

theorem boothStep_accumulatorBound (hlo : -32768 < m) (hhi : m ≤ 32768) (h : AccumulatorBound m r) :
    AccumulatorBound m (boothStep (BitVec.ofInt 16 m) r) := by
  have hA1 := boothAdd_toInt hlo hhi h (r.Q.getLsbD 0)
  unfold AccumulatorBound at h ⊢
  rw [boothStep_A, boothStep_Qp, BitVec.toInt_sshiftRight, hA1, Int.shiftRight_eq_div_pow]
  cases hQp : r.Qp <;> cases r.Q.getLsbD 0
  all_goals
    simp only [hQp, Bool.toNat_false, Bool.toNat_true] at h ⊢
    split_ifs at h ⊢ <;> omega

/-! ### The iterations -/

/-- What `k` iterations of multiplying `m` by `y` leave (R107): the low bits of Q are the bits of `y` still to come,
`Qp` is the last bit taken, and the pair is `2 ^ (16 - k)` times `m` times the signed value of the `k` bits taken, plus
the bits still to come. -/
structure BoothProgress (m : Int) (y : Half) (k : Nat) (r : BoothRegs) : Prop where
  bound : AccumulatorBound m r
  toCome : ∀ j, j + k < 16 → r.Q.getLsbD j = y.getLsbD (j + k)
  last : r.Qp.toNat = 2 * y.toNat / 2 ^ k % 2
  pair : 2 ^ k * r.product.toInt
    = 2 ^ 16 * m * (y.toNat % 2 ^ k - 2 ^ k * r.Qp.toNat) + 2 ^ k * (y.toNat / 2 ^ k)

theorem boothProgress_start (m : Int) (y : Half) : BoothProgress m y 0 (boothStart y) where
  bound := by
    unfold AccumulatorBound
    split_ifs <;> simp [boothStart] <;> omega
  toCome := fun j _ => rfl
  last := by simp [boothStart]
  pair := by simp [product_toInt, boothStart]

theorem boothProgress_step (hlo : -32768 < m) (hhi : m ≤ 32768) (hk : k < 16) (h : BoothProgress m y k r) :
    BoothProgress m y (k + 1) (boothStep (BitVec.ofInt 16 m) r) where
  bound := boothStep_accumulatorBound hlo hhi h.bound
  toCome := fun j hj => by
    rw [boothStep_Q_getLsbD (by omega), h.toCome (j + 1) (by omega), Nat.add_right_comm, Nat.add_assoc]
  last := by
    rw [boothStep_Qp, h.toCome 0 (by omega), toNat_getLsbD, Nat.zero_add, Nat.pow_succ',
      Nat.mul_div_mul_left _ _ two_pos]
  pair := by
    have hq0 : (r.Q.getLsbD 0).toNat = y.toNat / 2 ^ k % 2 := by
      rw [h.toCome 0 (by omega), toNat_getLsbD, Nat.zero_add]
    have hodd : (r.Q.getLsbD 0).toNat = r.Q.toNat % 2 := by rw [toNat_getLsbD, Nat.pow_zero, Nat.div_one]
    have hstep : 2 * (boothStep (BitVec.ofInt 16 m) r).product.toInt
        = r.product.toInt + 2 ^ 16 * (m * r.Qp.toNat - m * (r.Q.getLsbD 0).toNat) - (r.Q.getLsbD 0).toNat := by
      rw [boothStep_product_toInt, boothAdd_toInt hlo hhi h.bound, product_toInt]
      omega
    have hmod : (y.toNat % 2 ^ (k + 1) : Int) = y.toNat % 2 ^ k + 2 ^ k * (r.Q.getLsbD 0).toNat := by
      rw [hq0]
      exact_mod_cast Nat.mod_pow_succ
    have hdiv : (y.toNat / 2 ^ k : Int) = 2 * (y.toNat / 2 ^ (k + 1)) + (r.Q.getLsbD 0).toNat := by
      rw [hq0]
      have h := (Nat.div_add_mod (y.toNat / 2 ^ k) 2).symm
      rw [Nat.div_div_eq_div_mul, ← Nat.pow_succ] at h
      exact_mod_cast h
    have hpair := h.pair
    rw [hdiv] at hpair
    rw [boothStep_Qp, hmod]
    linear_combination 2 ^ k * hstep + hpair

theorem boothProgress_iters (hlo : -32768 < m) (hhi : m ≤ 32768) (y : Half) (hk : k ≤ 16) :
    BoothProgress m y k (boothIters (BitVec.ofInt 16 m) k (boothStart y)) := by
  induction k with
  | zero => exact boothProgress_start m y
  | succ k ih =>
    rw [boothIters_succ_last]
    exact boothProgress_step hlo hhi (by omega) (ih (by omega))

/-! ### The function -/

/-- `MUL_F` multiplies by the number that stands for its multiplicand, -32768 excluded and 32768 in its place (R108). -/
theorem mulF_toInt (hlo : -32768 < m) (hhi : m ≤ 32768) (y : Half) :
    (mulF (BitVec.ofInt 16 m) y).toInt = m * y.toInt := by
  obtain ⟨-, -, hlast, hpair⟩ := boothProgress_iters hlo hhi y (Nat.le_refl 16)
  have hy : y.toInt = y.toNat % 2 ^ 16 - 2 ^ 16 * (2 * y.toNat / 2 ^ 16 % 2 : Nat) := by
    have hlt := y.isLt
    rw [BitVec.toInt_eq_toNat_cond]
    split_ifs <;> omega
  have hzero : (y.toNat : Int) / 2 ^ 16 = 0 := by
    have hlt := y.isLt
    omega
  rw [hlast, ← hy, hzero] at hpair
  have hmulF : mulF (BitVec.ofInt 16 m) y = (boothIters (BitVec.ofInt 16 m) 16 (boothStart y)).product := rfl
  rw [hmulF]
  linarith

theorem toInt_eq_min_iff {x : Half} : x.toInt = -32768 ↔ x = 0x8000#16 := by
  rw [← BitVec.toInt_inj]
  rfl

/-- The closed form away from the multiplicand -32768 (R108). -/
theorem mulF_toInt_of_ne {x : Half} (hx : x ≠ 0x8000#16) (y : Half) : (mulF x y).toInt = x.toInt * y.toInt := by
  have hle := BitVec.le_two_mul_toInt (x := x)
  have hlt := BitVec.two_mul_toInt_lt (x := x)
  have hne := mt toInt_eq_min_iff.mp hx
  have h := mulF_toInt (m := x.toInt) (by omega) (by omega) y
  rwa [BitVec.ofInt_toInt] at h

/-- In the multiplicand's place -32768 stands for 32768 (R108). -/
theorem mulF_min_toInt (y : Half) : (mulF 0x8000#16 y).toInt = 32768 * y.toInt :=
  mulF_toInt (m := 32768) (by decide) (by decide) y

theorem toInt_eq_zero_iff {x : Half} : x.toInt = 0 ↔ x = 0x0000#16 := by
  rw [← BitVec.toInt_inj, BitVec.toInt_zero]

/-- With one operand -32768 the two products have opposite signs, which only a zero product bears (R109). -/
theorem mulF_min_comm_iff (hy : y ≠ 0x8000#16) : mulF 0x8000#16 y = mulF y 0x8000#16 ↔ y = 0x0000#16 := by
  have hmin : (0x8000#16).toInt = -32768 := rfl
  rw [← BitVec.toInt_inj, mulF_min_toInt, mulF_toInt_of_ne hy, hmin, ← toInt_eq_zero_iff]
  omega

/-! ### The statements -/

/-- Settles O16: halving the pair rounds down, as the arithmetic shift of the 32 bits does. -/
theorem iterationShiftsThePair : Obligations.IterationShiftsThePair := by
  intro M r
  apply BitVec.eq_of_toInt_eq
  have h := boothStep_product_toInt M r
  rw [BoothRegs.product] at h
  rw [h, BitVec.toInt_sshiftRight, Int.shiftRight_eq_div_pow]
  have hpair := product_toInt ⟨boothAdd (boothSel (r.Q.getLsbD 0) r.Qp) r.A M, r.Q, r.Qp⟩
  rw [BoothRegs.product] at hpair
  rw [hpair]
  rfl

/-- Settles O22, by the closed form. -/
theorem mulIsExactSignedProduct : Obligations.MulIsExactSignedProduct := fun _ y hx => mulF_toInt_of_ne hx y

/-- Settles O23: the closed form of the multiplicand -32768 has the other sign, so only 0 agrees with the true
product. -/
theorem mulNegatesForMinimumMultiplicand : Obligations.MulNegatesForMinimumMultiplicand := by
  intro y
  refine ⟨?_, ?_⟩
  · rw [← mulF_min_toInt, BitVec.ofInt_toInt]
  · rw [mulF_min_toInt, ← toInt_eq_zero_iff]
    omega

/-- Settles O24: both closed forms have the factor 0. -/
theorem mulByZero : Obligations.MulByZero := by
  intro n
  refine ⟨?_, ?_⟩ <;> rw [← BitVec.toInt_inj]
  · rw [mulF_toInt_of_ne (by decide)]
    simp
  · by_cases hn : n = 0x8000#16
    · rw [hn, mulF_min_toInt]
      rfl
    · rw [mulF_toInt_of_ne hn]
      simp

/-- Settles O25: where neither operand is -32768 both products are exact; where one is, by `mulF_min_comm_iff`. -/
theorem mulCommutesExactly : Obligations.MulCommutesExactly := by
  intro x y
  by_cases hx : x = 0x8000#16 <;> by_cases hy : y = 0x8000#16
  · simp [hx, hy]
  · rw [hx, mulF_min_comm_iff hy]
    simp [hy]
  · rw [hy, eq_comm, mulF_min_comm_iff hx]
    simp [hx]
  · have hcomm : mulF x y = mulF y x := by
      rw [← BitVec.toInt_inj, mulF_toInt_of_ne hx, mulF_toInt_of_ne hy, Int.mul_comm]
    simp [hcomm, hx, hy]

end Sys2Proof.Machine
end

section
/-! PROOFS. A MUL from its accept edge to its completion (40_booth_multiplier.md R100 to R107; 70_reset_and_hazards.md
R239), and the lines that wait for it (30_encoding.md R82). -/

namespace Sys2Proof.Machine

variable {i : Instr} {s t : State} {p : Ports} {ps : List Ports} {x y : Half} {k : Nat}

/-! ### A multiplication in progress and a completed one -/

/-- `s` with a MUL of `x` by `y` accepted and `k` of its iterations run, fewer than all 16. -/
def State.multiplyingAfter (x y : Half) (k : Nat) (s : State) : State :=
  { (s.writeBooth (boothIters x k (boothStart y))) with
    M := x, cnt := BitVec.ofNat 5 (Config.wMul - k), busy := true, done := false }

/-- `s` with a MUL of `x` by `y` accepted and completed. -/
def State.multiplied (x y : Half) (s : State) : State :=
  { (s.writeBooth (boothIters x Config.wMul (boothStart y))) with
    M := x, cnt := 0#5, result := mulF x y, busy := false, done := true }

theorem acceptEffect_mul_eq_multiplyingAfter (x y : Half) (s : State) :
    acceptEffect (.mul x y) s = s.multiplyingAfter x y 0 := rfl

theorem multiplyingAfter_cnt_toNat (hk : k < 16) : (s.multiplyingAfter x y k).cnt.toNat = 16 - k := by
  simp only [State.multiplyingAfter, Config.wMul, BitVec.toNat_ofNat]
  omega

theorem multiplyingAfter_cnt_eq_one_iff (hk : k < 16) : (s.multiplyingAfter x y k).cnt = 1#5 ↔ k = 15 := by
  rw [← BitVec.toNat_inj, multiplyingAfter_cnt_toNat hk, BitVec.toNat_ofNat]
  omega

theorem multiplyingAfter_multiplying (hk : k < 16) : (s.multiplyingAfter x y k).Multiplying x y := by
  refine ⟨rfl, rfl, ?_⟩
  rw [multiplyingAfter_cnt_toNat hk, Nat.sub_sub_self (Nat.le_of_lt hk)]
  rfl

/-- An iteration edge before the last is one iteration further. -/
theorem iterate_multiplyingAfter (hk : k < 15) :
    (s.multiplyingAfter x y k).iterate = s.multiplyingAfter x y (k + 1) := by
  have hne : (s.multiplyingAfter x y k).cnt ≠ 1#5 := by
    rw [Ne, multiplyingAfter_cnt_eq_one_iff (by omega)]
    omega
  have hcnt : BitVec.ofNat 5 (16 - k) - 1#5 = BitVec.ofNat 5 (16 - (k + 1)) := by bv_omega
  rw [State.iterate_of_ne hne]
  simp only [State.multiplyingAfter, boothIters_succ_last, ← hcnt]
  rfl

/-- The 16th iteration edge completes the MUL. -/
theorem iterate_multiplyingAfter_last : (s.multiplyingAfter x y 15).iterate = s.multiplied x y := by
  have hcnt : BitVec.ofNat 5 (16 - 15) - 1#5 = 0#5 := by decide
  rw [State.iterate_of_eq ((multiplyingAfter_cnt_eq_one_iff (by decide)).mpr rfl)]
  simp only [State.multiplied, ← hcnt, State.multiplyingAfter, mulF, Config.wMul, boothIters_succ_last x 15]
  generalize boothIters x 15 (boothStart y) = r
  rfl

/-- What a consistent state with a multiplication in progress is: as many iterations have run as are not left. -/
theorem eq_multiplyingAfter (hcons : s.Consistent) (hmul : s.Multiplying x y) :
    s = s.multiplyingAfter x y (16 - s.cnt.toNat) := by
  obtain ⟨-, hle, hdone⟩ := hcons
  obtain ⟨hbusy, hM, hregs⟩ := hmul
  have hcnt : BitVec.ofNat 5 (16 - (16 - s.cnt.toNat)) = s.cnt := by
    rw [Nat.sub_sub_self hle, BitVec.ofNat_toNat, BitVec.setWidth_eq]
  rw [State.multiplyingAfter, ← hregs, hcnt, ← hM, ← hbusy, ← hdone hbusy]
  rfl

/-! ### The edges after the accept -/

theorem no_rst_append_singleton_iff {qs : List Ports} {q : Ports} :
    (qs ++ [q]).all (fun u => !u.rst) = true ↔ qs.all (fun u => !u.rst) = true ∧ q.rst = false := by simp

/-- A MUL and more edges with `rst = 0`, fewer than 16: whatever they present is lost (R236). -/
theorem afterEdges_mul (hb : s.busy = false) (hp : decode p = .mul x y) (hps : ps.all (fun q => !q.rst) = true)
    (hlen : ps.length < 16) : s.afterEdges (p :: ps) = s.multiplyingAfter x y ps.length := by
  induction ps using List.reverseRecOn with
  | nil => rw [afterEdges_cons, afterEdge_of_free hb, hp, acceptEffect_mul_eq_multiplyingAfter]; rfl
  | append_singleton qs q ih =>
    obtain ⟨hqs, hq⟩ := no_rst_append_singleton_iff.mp hps
    rw [List.length_append, List.length_singleton] at hlen ⊢
    rw [← List.cons_append, afterEdges_append, ih hqs (by omega), afterEdges_cons, afterEdges_nil,
      afterEdge_of_busy hq rfl, iterate_multiplyingAfter (by omega)]

/-- A MUL and 16 more edges with `rst = 0`. -/
theorem afterEdges_mul_completed (hb : s.busy = false) (hp : decode p = .mul x y)
    (hps : ps.all (fun q => !q.rst) = true) (hlen : ps.length = 16) :
    s.afterEdges (p :: ps) = s.multiplied x y := by
  obtain ⟨qs, q, rfl⟩ := List.eq_nil_or_concat' ps |>.resolve_left (by rintro rfl; simp at hlen)
  obtain ⟨hqs, hq⟩ := no_rst_append_singleton_iff.mp hps
  rw [List.length_append, List.length_singleton] at hlen
  have hqlen : qs.length = 15 := by omega
  rw [← List.cons_append, afterEdges_append, afterEdges_mul hb hp hqs (by omega), afterEdges_cons, afterEdges_nil,
    hqlen, afterEdge_of_busy hq rfl, iterate_multiplyingAfter_last]

/-- A run of a MUL and the edges after it. -/
theorem run_mul_presented (s : State) (p : Ports) (ps later : List Ports) :
    Host.Core.run core (1 + ps.length) (s.presenting p (ps ++ later))
      = .next { s.afterEdges (p :: ps) with inputs := later } := by
  rw [Nat.add_comm, ← List.length_cons (a := p)]
  exact run_presented (p :: ps) later s

/-! ### The waiting lines -/

theorem afterEdge_idle_of_busy (hb : s.busy = true) : s.afterEdge (encodePorts .idle) = s.iterate :=
  afterEdge_of_busy rfl hb

/-- Polling `busy` drives one IDLE for each iteration left, and ends with a free core. -/
theorem waitIdles_of_consistent (n : Nat) (h : s.Consistent) (hn : s.cnt.toNat ≤ n) :
    waitIdles n s = List.replicate s.cnt.toNat (encodePorts .idle) ∧ (s.afterEdges (waitIdles n s)).busy = false := by
  obtain ⟨hbusy, -, -⟩ := id h
  induction n generalizing s with
  | zero =>
    have hcnt : s.cnt = 0#5 := by bv_omega
    have hfree : s.busy = false := by simpa [hcnt] using hbusy
    simp [waitIdles, hcnt, hfree]
  | succ n ih =>
    cases hb : s.busy with
    | false => simp [waitIdles, hb, cnt_eq_zero_of_free h hb]
    | true =>
      have hsub := cnt_sub_one_toNat (hbusy.mp hb)
      have hcons := iterate_consistent h hb
      obtain ⟨hlist, hfree⟩ := ih hcons (by rw [State.iterate_cnt]; omega) hcons.1
      rw [State.iterate_cnt] at hlist
      rw [waitIdles, if_pos hb, afterEdge_idle_of_busy hb]
      refine ⟨?_, ?_⟩
      · rw [hlist, ← hsub, List.replicate_succ]
      · rw [afterEdges_cons, afterEdge_idle_of_busy hb]
        exact hfree

/-! ### The statements -/

/-- Settles O18: the registers are loaded as no iteration leaves them. -/
theorem mulAcceptStartsMultiplying : Obligations.MulAcceptStartsMultiplying := by
  intro x y s hb
  exact ⟨_, exec_of_free _ hb, multiplyingAfter_multiplying (k := 0) (by decide), acceptEffect_mul_consistent x y s⟩

/-- Settles O19: the edge is an iteration edge of `State.multiplyingAfter`. -/
theorem iterationKeepsMultiplying : Obligations.IterationKeepsMultiplying := by
  intro i x y s t hcons hmul hi ht
  obtain ⟨hbusy, hle, -⟩ := id hcons
  obtain ⟨hb, -, -⟩ := id hmul
  have hcnt : s.cnt ≠ 0#5 := hbusy.mp hb
  rw [next_eq_iterate ht hi hb]
  refine ⟨fun hne => ?iteration, fun hlast => ?last⟩
  case iteration =>
    have hiter : s.iterate = s.multiplyingAfter x y (16 - s.cnt.toNat + 1) := by
      conv_lhs => rw [eq_multiplyingAfter hcons hmul]
      exact iterate_multiplyingAfter (by bv_omega)
    refine ⟨?_, ?_, ?_⟩
    · rw [hiter]
      exact multiplyingAfter_multiplying (by bv_omega)
    · rw [State.iterate_cnt]
      exact cnt_sub_one_toNat hcnt
    · rw [State.iterate_result, if_neg hne]
  case last =>
    have hs := eq_multiplyingAfter hcons hmul
    rw [hlast] at hs
    rw [hs]
    exact ⟨congrArg State.busy iterate_multiplyingAfter_last, congrArg State.done iterate_multiplyingAfter_last,
      congrArg State.result iterate_multiplyingAfter_last⟩

/-- Settles O20, by `afterEdges_mul`: only the Booth registers, `cnt`, `busy` and `done` differ from before the MUL. -/
theorem noPartialProductShows : Obligations.NoPartialProductShows := by
  intro s x y p ps later hb hp hps hlen
  refine ⟨_, run_mul_presented s p ps later, ?_⟩
  rw [afterEdges_mul hb hp hps hlen]
  exact ⟨rfl, rfl, multiplyingAfter_cnt_toNat (s := s) (x := x) (y := y) hlen, rfl, rfl, rfl, rfl, rfl, rfl⟩

/-- Settles O21, by `afterEdges_mul_completed`. -/
theorem mulCompletesAfterSeventeenEdges : Obligations.MulCompletesAfterSeventeenEdges := by
  intro s x y p ps later hb hp hps hlen
  have hrun := run_mul_presented s p ps later
  rw [Nat.add_comm, hlen] at hrun
  refine ⟨_, hrun, ?_⟩
  rw [afterEdges_mul_completed hb hp hps (Nat.succ.inj hlen)]
  exact ⟨rfl, rfl, rfl, rfl, rfl, rfl, rfl, rfl, rfl⟩

/-- Settles O26: both runs end in `State.multiplied` of the same operands, which takes these registers from nothing
else. -/
theorem productDependsOnOperandsOnly : Obligations.ProductDependsOnOperandsOnly := by
  intro s u s' u' p q ps qs hs hu hpq hmn hps hqs hpslen hqslen hsrun hurun
  obtain ⟨x, y, hp⟩ := Instr.mnemonic_eq_mul.mp hmn
  have hend {v v' : State} {p : Ports} {ps : List Ports} (hv : v.busy = false) (hp : decode p = .mul x y)
      (hps : ps.all (fun r => !r.rst) = true) (hlen : ps.length = 16)
      (hrun : Host.Core.run core 17 (v.presenting p ps) = .next v') : v' = { v.multiplied x y with inputs := [] } := by
    have h := run_mul_presented v p ps []
    rw [List.append_nil, hlen, afterEdges_mul_completed hv hp hps hlen] at h
    exact Host.Outcome.next.inj (hrun.symm.trans h)
  rw [hend hs hp hps hpslen hsrun, hend hu (hpq ▸ hp) hqs hqslen hurun]
  exact ⟨rfl, rfl, rfl, rfl, rfl, rfl⟩

/-- The line of a MUL decodes to it. -/
theorem decode_mulLine (x y : HalfArg) : decode (mulLine x y) = .mul (halfBits x) (halfBits y) := decode_encodePorts _

/-- Settles O53: WAITDONE by `waitIdles_of_consistent`, and MULW's 16 IDLEs are the edges that complete its MUL. -/
theorem waitdoneRunsTheIterations : Obligations.WaitdoneRunsTheIterations := by
  refine ⟨fun s hcons => waitIdles_of_consistent 16 hcons ?_, fun s x y hb => ?mulw⟩
  · obtain ⟨-, hle, -⟩ := hcons
    exact hle
  case mulw =>
    have hacc : s.afterEdge (mulLine x y) = acceptEffect (.mul (halfBits x) (halfBits y)) s := by
      rw [afterEdge_of_free hb, decode_mulLine]
    have hcons := acceptEffect_mul_consistent (halfBits x) (halfBits y) s
    obtain ⟨hwait, -⟩ := waitIdles_of_consistent 16 hcons (Nat.le_refl 16)
    have hline : expandLine s (.mulw x y) = mulLine x y :: List.replicate 16 (encodePorts .idle) := by
      rw [expandLine, hacc, Config.wMul, hwait]
      rfl
    refine ⟨hline, ?_⟩
    rw [hline, afterEdges_mul_completed hb (decode_mulLine x y) (by decide) (by decide)]
    rfl

/-- Settles O54: a decimal operand is in the range of 16-bit signed numbers and a hex operand below 2^16, so neither is
reduced. -/
theorem mulLineDrivesTheOperands : Obligations.MulLineDrivesTheOperands := by
  refine ⟨fun v hv => ?dec, fun n hn => ?hex, fun x y => ?line⟩
  case dec =>
    have hrange : -32768 ≤ v ∧ v ≤ 32767 := by simpa [HalfArg.wf] using hv
    rw [halfBits, BitVec.toInt_ofInt, Int.bmod_eq_of_le] <;> omega
  case hex =>
    have hrange : n < 2 ^ 16 := by simpa [HalfArg.wf] using hn
    rw [halfBits, BitVec.toNat_ofNat, Nat.mod_eq_of_lt hrange]
  case line =>
    have hhigh (v : Half) : (v.setWidth 32).extractLsb' 16 16 = 0#16 := by
      rw [← eq_setWidth_extractLsb'_iff, extractLsb'_setWidth_half]
    have hcw : (mulLine x y).cw = (Ports.ofCW false true 0b00#2).cw := cw_inj.mpr ⟨rfl, rfl, rfl⟩
    exact ⟨hcw, extractLsb'_setWidth_half _, hhigh _, extractLsb'_setWidth_half _, hhigh _⟩

end Sys2Proof.Machine
end

section
/-! PROOFS. Programs that start with RST (00_scope.md R14; 70_reset_and_hazards.md R232, R234), and the host that counts
its edges (R239, R243). -/

namespace Sys2Proof.Machine

variable {s : State} {p q r : Ports} {ps qs rest : List Ports} {wait : Nat}

/-! ### Runs from RST -/

theorem run_succ_of_step {n : Nat} {u v : core.State} (h : core.step u = .next v) :
    Host.Core.run core (n + 1) u = Host.Core.run core n v := by
  rw [Host.Core.run, h]

/-- The first line resets, whatever the state before it, and the other lines run from the reset state (R232). -/
theorem runProgram_of_rst (rest : List Ports) (hp : p.rst = true) :
    runProgram (p :: rest) = Host.Core.run core rest.length { State.reset with inputs := rest } := by
  have hstep : core.step (State.powerUp (p :: rest)) = .next { State.reset with inputs := rest } :=
    step_presenting_of_rst (s := State.powerUp []) rest hp
  exact (if_pos hp).trans (run_succ_of_step hstep)

/-- A program's lines after its RST are all run, from the reset state. -/
theorem runProgram_eq_next (rest : List Ports) (hp : p.rst = true) :
    runProgram (p :: rest) = .next { State.reset.afterEdges rest with inputs := [] } := by
  have hrun := run_presented rest [] State.reset
  rw [List.append_nil] at hrun
  exact (runProgram_of_rst rest hp).trans hrun

theorem runProgram_of_not_rst (rest : List Ports) (hp : p.rst = false) :
    runProgram (p :: rest) = .refused .firstLineNotRst := by
  simp [runProgram, hp]

theorem observe_of_next {program : List Ports} (h : runProgram program = .next s) :
    observe program = some s.outputs := by
  rw [observe, h]

/-! ### A host that counts -/

/-- The edges the host must still let pass after an edge presenting `p` (R239). -/
def waitAfter (p : Ports) (wait : Nat) : Nat :=
  if p.rst then 0 else if p.start then (if p.op = 0b00#2 then Config.wMul else 0) else wait - 1

/-- The counting host's duty at one edge, and at the edges after it. -/
theorem hostCounts_cons (wait : Nat) (p : Ports) (ps : List Ports) :
    hostCounts wait (p :: ps) = true ↔
      (p.rst = false → p.start = true → wait = 0) ∧ hostCounts (waitAfter p wait) ps = true := by
  rw [hostCounts, waitAfter]
  split_ifs <;> simp_all

/-- A free core's edge leaves the counter idle, except where it accepts a MUL. -/
theorem afterEdge_cnt_of_free (h : s.Consistent) (hb : s.busy = false) (hr : p.rst = false)
    (hm : ¬ (p.start = true ∧ p.op = 0b00#2)) : (s.afterEdge p).cnt = 0#5 := by
  have hne : decode p ≠ .rst := by simp [decode_eq_rst, hr]
  have hmn : (decode p).mnemonic ≠ "MUL" := by simp [decode_mnemonic_eq_mul_iff, hr, hm]
  obtain ⟨-, hcnt, -⟩ := acceptEffect_booth (s := s) hne hmn
  rw [afterEdge_of_free hb, hcnt, cnt_eq_zero_of_free h hb]

/-- The host's count never falls short of the iterations left: a MUL accept loads 16, every other edge of a free core
leaves the counter idle, and an iteration edge takes one from both. -/
theorem afterEdge_cnt_le (h : s.Consistent) (hwait : s.cnt.toNat ≤ wait)
    (hduty : p.rst = false → p.start = true → wait = 0) : (s.afterEdge p).cnt.toNat ≤ waitAfter p wait := by
  obtain ⟨hbusy, -, -⟩ := id h
  unfold waitAfter
  split_ifs with hr hs ho
  · simp [afterEdge_of_rst hr]
  · obtain ⟨-, hle, -⟩ := afterEdge_consistent p h
    exact hle
  all_goals replace hr := Bool.eq_false_of_not_eq_true hr
  · have hfree : s.busy = false := by
      have hcnt : s.cnt = 0#5 := by
        have hzero := hduty hr hs
        bv_omega
      simpa [hcnt] using hbusy
    rw [afterEdge_cnt_of_free h hfree hr (by simp [ho])]
    decide
  · cases hb : s.busy with
    | false =>
      rw [afterEdge_cnt_of_free h hb hr (by simp [hs])]
      exact Nat.zero_le _
    | true =>
      have hsub := cnt_sub_one_toNat (hbusy.mp hb)
      rw [afterEdge_of_busy hr hb, State.iterate_cnt]
      omega

/-- A host that counts presents no command to a busy core (R243). -/
theorem hostWaits_of_hostCounts (h : s.Consistent) (hwait : s.cnt.toNat ≤ wait) (hps : hostCounts wait ps = true) :
    hostWaits s ps = true := by
  induction ps generalizing s wait with
  | nil => rfl
  | cons p ps ih =>
    obtain ⟨hduty, hrest⟩ := (hostCounts_cons wait p ps).mp hps
    obtain ⟨hbusy, -, -⟩ := id h
    have hkept : commandLost p s = false := by
      by_contra hlost
      simp only [commandLost, Bool.not_eq_false, Bool.and_eq_true, Bool.not_eq_true'] at hlost
      obtain ⟨⟨hr, hs⟩, hb⟩ := hlost
      have hzero := hduty hr hs
      have hcnt := hbusy.mp hb
      bv_omega
    rw [hostWaits, hkept, ih (afterEdge_consistent p h) (afterEdge_cnt_le h hwait hduty) hrest]
    rfl

theorem safeProgram_of_spacedProgram {program : List Ports} (h : spacedProgram program = true) :
    safeProgram program = true := by
  cases program with
  | nil => exact h
  | cons r ps =>
    rw [spacedProgram, Bool.and_eq_true] at h
    obtain ⟨hr, hps⟩ := h
    rw [safeProgram, hr, hostWaits_of_hostCounts reset_consistent (Nat.zero_le 0) hps]
    rfl

theorem hostWaits_append (s : State) (ps qs : List Ports) :
    hostWaits s (ps ++ qs) = (hostWaits s ps && hostWaits (s.afterEdges ps) qs) := by
  induction ps generalizing s with
  | nil => rfl
  | cons p ps ih => rw [List.cons_append, hostWaits, ih, hostWaits, afterEdges_cons, Bool.and_assoc]

/-- A command of a spaced program meets a free core. -/
theorem free_of_spacedProgram (h : spacedProgram (r :: (ps ++ p :: qs)) = true) (hr : p.rst = false)
    (hs : p.start = true) : r.rst = true ∧ (State.reset.afterEdges ps).busy = false := by
  have hsafe := safeProgram_of_spacedProgram h
  rw [safeProgram, hostWaits_append, hostWaits] at hsafe
  simp only [Bool.and_eq_true, Bool.not_eq_true'] at hsafe
  obtain ⟨hrst, -, hkept, -⟩ := hsafe
  exact ⟨hrst, by simpa [commandLost, hr, hs] using hkept⟩

/-! ### The statements -/

/-- Settles O50, by `runProgram_of_rst`; the refusals are `runProgram`'s own. -/
theorem programRunsFromReset : Obligations.ProgramRunsFromReset :=
  ⟨fun _ rest => runProgram_of_rst rest, fun _ rest => runProgram_of_not_rst rest, rfl⟩

/-- Settles O51: the run is `afterEdges` from the reset state, which keeps the invariant. -/
theorem programsRunToTheirEnd : Obligations.ProgramsRunToTheirEnd := by
  intro p rest hp
  have hrun := runProgram_eq_next rest hp
  have hcons := afterEdges_consistent rest reset_consistent
  exact ⟨_, hrun, rfl, hcons, _, observe_of_next hrun, rfl, rfl, rfl, rfl, rfl, rfl⟩

/-- Settles O52: the host's count bounds the iterations left, so every command is accepted; its effect is
`acceptEffect`'s, and a MUL's 16 edges complete it. -/
theorem safeProgramsLoseNoCommand : Obligations.SafeProgramsLoseNoCommand := by
  refine ⟨fun _ => safeProgram_of_spacedProgram, fun r p before after h hr hs => ?accepted,
    fun r p before waits after h hr hs ho hlen hwaits => ?completed⟩
  case accepted =>
    obtain ⟨hrst, hb⟩ := free_of_spacedProgram h hr hs
    have hedge : { State.reset.afterEdges (before ++ [p]) with inputs := [] }
        = acceptEffect (decode p) { State.reset.afterEdges before with inputs := [] } := by
      rw [afterEdges_append, afterEdges_cons, afterEdges_nil, ← afterEdge_inputs]
      exact afterEdge_of_free hb
    refine ⟨_, _, runProgram_eq_next before hrst, runProgram_eq_next (before ++ [p]) hrst, rfl, hb, ?_, ?_, ?_, ?_⟩
    all_goals
      intro ho
      rw [hedge]
    · rw [decode_of_mul hr hs ho, acceptEffect_mul]
    · rw [decode_of_unpack hr hs ho, acceptEffect_unpack]
    · rw [decode_of_pack hr hs ho, acceptEffect_pack]
    · rw [decode_of_fdiv hr hs ho, acceptEffect_fdiv]
  case completed =>
    obtain ⟨hrst, hb⟩ := free_of_spacedProgram h hr hs
    refine ⟨_, runProgram_eq_next (before ++ p :: waits) hrst, ?_⟩
    rw [afterEdges_append, afterEdges_mul_completed hb (decode_of_mul hr hs ho) hwaits hlen]
    exact ⟨rfl, rfl, rfl⟩

end Sys2Proof.Machine
end

section
/-! PROOFS. The divider's quotient, its normalization and the function it computes (42_fp_divider.md R156 to R168). -/

namespace Sys2Proof.Machine

variable {fa fb : BitVec 23} {v w : FloatFields}

/-! ### The quotient's range (R160) -/

theorem quotient_lower (fa fb : BitVec 23) : 2 ^ 22 ≤ (quotient fa fb).toNat := by
  have hfb := fb.isLt
  rw [quotient_toNat, Nat.le_div_iff_mul_le (by omega)]
  omega

theorem quotient_upper (fa fb : BitVec 23) : (quotient fa fb).toNat < 2 ^ 24 := by
  have hfa := fa.isLt
  rw [quotient_toNat, Nat.div_lt_iff_lt_mul (by omega)]
  omega

theorem quotient_lt_iff (fa fb : BitVec 23) : (quotient fa fb).toNat < 2 ^ 23 ↔ fa.toNat < fb.toNat := by
  rw [quotient_toNat, Nat.div_lt_iff_lt_mul (by omega)]
  omega

theorem quotient_bit24 (fa fb : BitVec 23) : (quotient fa fb).getLsbD 24 = false :=
  Nat.testBit_lt_two_pow (quotient_upper fa fb)

/-- Bit 23 is clear exactly where the dividend's significand is the smaller. -/
theorem quotient_bit23 (fa fb : BitVec 23) : (quotient fa fb).getLsbD 23 = false ↔ fa.toNat < fb.toNat := by
  have hupper := quotient_upper fa fb
  have hbit := toNat_getLsbD (quotient fa fb) 23
  rw [← quotient_lt_iff, ← Bool.toNat_eq_zero, hbit]
  omega

/-! ### The normalization (R161, R162) -/

theorem normalize_of_le (h : fb.toNat ≤ fa.toNat) (e0 : Int) :
    normalize (quotient fa fb) e0 = (quotient fa fb, e0) := by
  have hset : (quotient fa fb).getLsbD 23 = true := by
    rw [← Bool.not_eq_false, quotient_bit23]
    omega
  rw [normalize, quotient_bit24, hset]
  rfl

theorem normalize_of_lt (h : fa.toNat < fb.toNat) (e0 : Int) :
    normalize (quotient fa fb) e0 = (quotient fa fb <<< 1, e0 - 1) := by
  rw [normalize, quotient_bit24, (quotient_bit23 fa fb).mpr h]
  rfl

/-- One shift where the quotient is below 2^23, and none otherwise: no bit is lost. -/
theorem normalize_sig_toNat (fa fb : BitVec 23) (e0 : Int) :
    (normalize (quotient fa fb) e0).1.toNat
      = if (quotient fa fb).toNat < 2 ^ 23 then 2 * (quotient fa fb).toNat else (quotient fa fb).toNat := by
  have hupper := quotient_upper fa fb
  split_ifs with h
  · rw [normalize_of_lt ((quotient_lt_iff fa fb).mp h), BitVec.toNat_shiftLeft, Nat.shiftLeft_eq]
    omega
  · rw [normalize_of_le (not_lt.mp (mt (quotient_lt_iff fa fb).mpr h))]

theorem normalize_exp (fa fb : BitVec 23) (e0 : Int) :
    (normalize (quotient fa fb) e0).2 = if (quotient fa fb).toNat < 2 ^ 23 then e0 - 1 else e0 := by
  split_ifs with h
  · rw [normalize_of_lt ((quotient_lt_iff fa fb).mp h)]
  · rw [normalize_of_le (not_lt.mp (mt (quotient_lt_iff fa fb).mpr h))]

/-- The normalized significand has its leading 1 at bit 23. -/
theorem normalize_sig_range (fa fb : BitVec 23) (e0 : Int) :
    2 ^ 23 ≤ (normalize (quotient fa fb) e0).1.toNat ∧ (normalize (quotient fa fb) e0).1.toNat < 2 ^ 24 := by
  have hlower := quotient_lower fa fb
  have hupper := quotient_upper fa fb
  rw [normalize_sig_toNat]
  split_ifs <;> omega

/-! ### The function of the raw fields (R164, R168) -/

/-- The normalized significand's stored bits (R163). -/
theorem extractLsb'_sig_of_normalized {q : Ext} (hlo : 2 ^ 23 ≤ q.toNat) :
    q.extractLsb' 0 23 = BitVec.ofNat 23 (q.toNat - 2 ^ 23) := by
  apply BitVec.eq_of_toNat_eq
  rw [BitVec.extractLsb'_toNat, Nat.shiftRight_zero, BitVec.toNat_ofNat]
  omega

theorem boundExp_of_normal {e : Int} (hlo : 1 ≤ e) (hhi : e ≤ 254) (sgn : BitVec 1) (r : Word) :
    boundExp sgn e r = r := by
  rw [boundExp, if_neg (by omega), if_neg (by omega)]

/-- What a bound can do (R158, R162). -/
theorem boundExp_cases (sgn : BitVec 1) (e : Int) (r : Word) :
    boundExp sgn e r = infinity sgn ∨ boundExp sgn e r = signedZero sgn ∨
      (1 ≤ e ∧ e ≤ 254 ∧ boundExp sgn e r = r) := by
  unfold boundExp
  split_ifs
  · exact .inl rfl
  · exact .inr (.inl rfl)
  · exact .inr (.inr ⟨by omega, by omega, rfl⟩)

theorem boundExp_boundExp (sgn : BitVec 1) (e : Int) (r : Word) :
    boundExp sgn e (boundExp sgn e r) = boundExp sgn e r := by
  unfold boundExp
  split_ifs <;> rfl

/-- Both bounds where the quotient is shifted: the post-check adds the zero of an exponent that the shift brings
to 0. -/
theorem boundExp_boundExp_sub_one (sgn : BitVec 1) (e : Int) (r : Word) :
    boundExp sgn e (boundExp sgn (e - 1) r)
      = if e ≥ 255 then infinity sgn else if e ≤ 0 ∨ e - 1 ≤ 0 then signedZero sgn else r := by
  obtain hge | hle | ⟨hlo, hhi⟩ : e ≥ 255 ∨ e - 1 ≤ 0 ∨ (1 ≤ e - 1 ∧ e ≤ 254) := by omega
  · rw [boundExp_of_ge hge, if_pos hge]
  · rw [boundExp_of_le hle, boundExp, ite_self, if_neg (by omega), if_neg (by omega), if_pos (.inr hle)]
  · rw [boundExp_of_normal (by omega) hhi, boundExp_of_normal hlo (by omega), if_neg (by omega), if_neg (by omega)]

/-- The steps 3 to 10 where the quotient needs no shift: the post-check repeats the first bound (R158 to R163). -/
theorem divideFields_of_sig_le (h : w.sig.toNat ≤ v.sig.toNat) :
    divideFields v w = boundExp (v.sign ^^^ w.sign) (candidateExp v.exp w.exp)
      (compose ⟨v.sign ^^^ w.sign, BitVec.ofInt 8 (candidateExp v.exp w.exp),
        BitVec.ofNat 23 ((quotient v.sig w.sig).toNat - 2 ^ 23)⟩) := by
  have hlo : 2 ^ 23 ≤ (quotient v.sig w.sig).toNat := by
    rw [← not_lt, quotient_lt_iff]
    omega
  simp only [divideFields, normalize_of_le h, boundExp_boundExp, repack, extractLsb'_sig_of_normalized hlo]

/-- The steps 3 to 10 where the quotient is shifted once: the post-check is on the exponent below (R161, R162). -/
theorem divideFields_of_sig_lt (h : v.sig.toNat < w.sig.toNat) :
    divideFields v w = boundExp (v.sign ^^^ w.sign) (candidateExp v.exp w.exp)
      (boundExp (v.sign ^^^ w.sign) (candidateExp v.exp w.exp - 1)
        (compose ⟨v.sign ^^^ w.sign, BitVec.ofInt 8 (candidateExp v.exp w.exp - 1),
          BitVec.ofNat 23 (2 * (quotient v.sig w.sig).toNat - 2 ^ 23)⟩)) := by
  have hlower := quotient_lower v.sig w.sig
  have hshift : (quotient v.sig w.sig <<< 1).toNat = 2 * (quotient v.sig w.sig).toNat := by
    have hupper := quotient_upper v.sig w.sig
    rw [BitVec.toNat_shiftLeft, Nat.shiftLeft_eq]
    omega
  have hsig := extractLsb'_sig_of_normalized (q := quotient v.sig w.sig <<< 1) (by omega)
  simp only [divideFields, normalize_of_lt h, repack, hsig, hshift]

/-- Two nonzero operands give an infinity, a zero or a normal pattern, of the sign that the operands' signs give. -/
theorem divideFields_cases (v w : FloatFields) :
    divideFields v w = infinity (v.sign ^^^ w.sign) ∨ divideFields v w = signedZero (v.sign ^^^ w.sign) ∨
      ∃ (e : Int) (g : BitVec 23), 1 ≤ e ∧ e ≤ 254 ∧
        divideFields v w = compose ⟨v.sign ^^^ w.sign, BitVec.ofInt 8 e, g⟩ := by
  obtain h | h | ⟨-, -, h⟩ := boundExp_cases (v.sign ^^^ w.sign) (candidateExp v.exp w.exp) _
  · exact .inl h
  · exact .inr (.inl h)
  · obtain h' | h' | ⟨hlo, hhi, h'⟩ := boundExp_cases (v.sign ^^^ w.sign) _ _
    · exact .inl (h.trans h')
    · exact .inr (.inl (h.trans h'))
    · exact .inr (.inr ⟨_, _, hlo, hhi, h.trans h'⟩)

/-! ### The fields of a result -/

theorem compose_exp (v : FloatFields) : (compose v).extractLsb' 23 8 = v.exp :=
  congrArg FloatFields.exp (decompose_compose v)

theorem compose_sig (v : FloatFields) : (compose v).extractLsb' 0 23 = v.sig :=
  congrArg FloatFields.sig (decompose_compose v)

theorem getLsbD_sign (f : Word) : f.getLsbD 31 = ((decompose f).sign == 1#1) :=
  BitVec.getLsbD_eq_extractLsb' f 31

theorem compose_getLsbD_sign (v : FloatFields) : (compose v).getLsbD 31 = (v.sign == 1#1) := by
  rw [getLsbD_sign, decompose_compose]

/-- The sign of every quotient of nonzero operands (R156). -/
theorem divideFields_getLsbD_sign (v w : FloatFields) :
    (divideFields v w).getLsbD 31 = ((v.sign == 1#1) ^^ (w.sign == 1#1)) := by
  have hxor : ∀ x y : BitVec 1, (x ^^^ y == 1#1) = ((x == 1#1) ^^ (y == 1#1)) := by decide
  rw [← hxor]
  obtain h | h | ⟨e, g, -, -, h⟩ := divideFields_cases v w <;> rw [h]
  · exact compose_getLsbD_sign _
  · exact compose_getLsbD_sign _
  · exact compose_getLsbD_sign _

/-- An exponent in range is stored unchanged (R163). -/
theorem ofInt_exp_toNat {e : Int} (hlo : 0 ≤ e) (hhi : e ≤ 255) : ((BitVec.ofInt 8 e).toNat : Int) = e := by
  rw [BitVec.toNat_ofInt, Int.toNat_of_nonneg (Int.emod_nonneg _ (by decide))]
  omega

theorem infinity_eq : ∀ s : BitVec 1, infinity s = 0x7F800000#32 ∨ infinity s = 0xFF800000#32 := by decide

theorem signedZero_eq : ∀ s : BitVec 1, signedZero s = 0x00000000#32 ∨ signedZero s = 0x80000000#32 := by decide

/-- A pattern with a set exponent bit is no zero. -/
theorem isZero_eq_false_of_exp_pos {f : Word} (h : 1 ≤ (f.extractLsb' 23 8).toNat) : isZero f = false := by
  rw [isZero_eq_false_iff]
  intro hzero
  have hnum := congrArg BitVec.toNat hzero
  rw [BitVec.extractLsb'_toNat, Nat.shiftRight_zero, BitVec.toNat_ofNat] at hnum
  rw [BitVec.extractLsb'_toNat, Nat.shiftRight_eq_div_pow] at h
  omega

/-! ### The statements -/

/-- Settles O35: the bounds on natural numbers, and both attained. -/
theorem quotientRange : Obligations.QuotientRange :=
  ⟨fun fa fb => ⟨quotient_lower fa fb, quotient_upper fa fb, quotient_bit24 fa fb, quotient_bit23 fa fb⟩,
    by decide, by decide⟩

/-- Settles O37: the exponent falls by one exactly where the significand is shifted. -/
theorem postCheckFiresOnlyOnUnderflow : Obligations.PostCheckFiresOnlyOnUnderflow := by
  rintro e0 fa fb n hlo hhi rfl
  refine ⟨?_, ?_, normalize_sig_range fa fb e0⟩ <;> rw [normalize_exp]
  · split_ifs <;> omega
  · rw [← quotient_lt_iff]
    split_ifs <;> omega

/-- Settles O38: the zero cases' results, and `divideFields_cases` for nonzero operands. -/
theorem fdivResultClasses : Obligations.FdivResultClasses := by
  intro a b
  cases ha : isZero a <;> cases hb : isZero b
  · rw [fdivF_of_nonzero_nonzero ha hb]
    obtain h | h | ⟨e, g, hlo, hhi, h⟩ := divideFields_cases (decompose a) (decompose b) <;> rw [h]
    · have hinf := infinity_eq ((decompose a).sign ^^^ (decompose b).sign)
      tauto
    · have hzero := signedZero_eq ((decompose a).sign ^^^ (decompose b).sign)
      tauto
    · have hexp := ofInt_exp_toNat (e := e) (by omega) (by omega)
      rw [compose_exp]
      dsimp only
      omega
  · rw [fdivF_of_nonzero_zero ha hb]
    split_ifs
    · exact .inr (.inl rfl)
    · exact .inr (.inr (.inl rfl))
  · exact .inr (.inr (.inr (.inl (fdivF_of_zero_nonzero ha hb))))
  · exact .inl ⟨fdivF_of_zero_zero ha hb, (isZero_iff a).mp ha, (isZero_iff b).mp hb⟩

/-- Settles O40: the zero cases' fixed signs, and the sign that `divideFields` gives each of its results. -/
theorem fdivSigns : Obligations.FdivSigns := by
  intro a b hzero
  simp only [← isZero_iff] at hzero ⊢
  cases ha : isZero a <;> cases hb : isZero b
  · rw [fdivF_of_nonzero_nonzero ha hb, divideFields_getLsbD_sign, ← getLsbD_sign, ← getLsbD_sign]
    rfl
  · rw [fdivF_of_nonzero_zero ha hb]
    cases isPos a <;> rfl
  · rw [fdivF_of_zero_nonzero ha hb]
    rfl
  · exact absurd ⟨ha, hb⟩ hzero

/-- Settles O36: the candidate exponent passes the first bound, and the post-check's zero is the pattern with the
exponent 0 and no significand. -/
theorem inRangeQuotient : Obligations.InRangeQuotient := by
  rintro a b ea eb fa fb q sgn ha hb rfl rfl rfl rfl rfl hq hlo hhi
  have hdiv := fdivF_of_nonzero_nonzero (isZero_eq_false_iff.mpr ha) (isZero_eq_false_iff.mpr hb)
  have hcand := candidateExp_eq (a.extractLsb' 23 8) (b.extractLsb' 23 8)
  rw [← quotient_toNat] at hq
  refine ⟨fun hle => ?unshifted, fun hlt => ?shifted⟩
  case unshifted =>
    have hexp : candidateExp (a.extractLsb' 23 8) (b.extractLsb' 23 8)
        = ((a.extractLsb' 23 8).toNat + 127 - (b.extractLsb' 23 8).toNat : Nat) := by omega
    rw [hdiv, divideFields_of_sig_le hle, boundExp_of_normal, hq]
    · simp only [decompose_exp, hexp, BitVec.ofInt_natCast]
      rfl
    all_goals
      simp only [decompose_exp]
      omega
  case shifted =>
    have hexp : candidateExp (a.extractLsb' 23 8) (b.extractLsb' 23 8) - 1
        = ((a.extractLsb' 23 8).toNat + 126 - (b.extractLsb' 23 8).toNat : Nat) := by omega
    rw [hdiv, divideFields_of_sig_lt hlt, boundExp_of_normal, hq]
    · simp only [decompose_exp, hexp, BitVec.ofInt_natCast]
      split_ifs with hzero
      · rw [boundExp_of_le (by omega), hzero, Nat.sub_self]
        rfl
      · rw [boundExp_of_normal (by omega) (by omega)]
        rfl
    all_goals
      simp only [decompose_exp]
      omega

/-- Settles O41: the first clause is `divideFields_of_sig_le` and `divideFields_of_sig_lt` on natural numbers; the other
two are quotients that need no shift. -/
theorem fdivKnowsOnlyZeros : Obligations.FdivKnowsOnlyZeros := by
  refine ⟨?fields, fun f hf => ?itself, fun f hlo hhi => ?one⟩
  case fields =>
    rintro a b sgn ea eb fa fb q0 q e0 e ha hb rfl rfl rfl rfl rfl rfl hq0 rfl rfl
    rw [← quotient_toNat] at hq0
    rw [fdivF_of_nonzero_nonzero (isZero_eq_false_iff.mpr ha) (isZero_eq_false_iff.mpr hb), ← candidateExp_eq, hq0]
    simp only [quotient_lt_iff]
    by_cases hlt : (a.extractLsb' 0 23).toNat < (b.extractLsb' 0 23).toNat
    · rw [divideFields_of_sig_lt hlt]
      simp only [if_pos hlt]
      exact boundExp_boundExp_sub_one _ _ _
    · rw [divideFields_of_sig_le (not_lt.mp hlt)]
      simp only [if_neg hlt, boundExp, or_self]
      rfl
  case itself =>
    have hquot : (quotient (f.extractLsb' 0 23) (f.extractLsb' 0 23)).toNat = 2 ^ 23 := by
      rw [quotient_toNat, Nat.mul_div_cancel_left _ (by omega)]
    have hexp : candidateExp (f.extractLsb' 23 8) (f.extractLsb' 23 8) = 127 := by
      rw [candidateExp_eq]
      omega
    have hf := isZero_eq_false_iff.mpr hf
    rw [fdivF_of_nonzero_nonzero hf hf, divideFields_of_sig_le le_rfl]
    simp only [decompose_sign, decompose_exp, decompose_sig, hquot, hexp, BitVec.xor_self]
    decide
  case one =>
    have hquot : (quotient (f.extractLsb' 0 23) 0#23).toNat - 2 ^ 23 = (f.extractLsb' 0 23).toNat := by
      rw [quotient_toNat, BitVec.toNat_zero, Nat.add_zero, Nat.mul_div_cancel _ (by decide), Nat.add_sub_cancel_left]
    have hexp : candidateExp (f.extractLsb' 23 8) 127#8 = (f.extractLsb' 23 8).toNat := by
      rw [candidateExp_eq]
      exact Int.sub_add_cancel _ 127
    have hone : decompose 0x3F800000#32 = ⟨0#1, 127#8, 0#23⟩ := by decide
    rw [fdivF_of_nonzero_nonzero (isZero_eq_false_of_exp_pos hlo) (by decide), hone,
      divideFields_of_sig_le (Nat.zero_le _)]
    simp only [decompose_sign, decompose_exp, decompose_sig, hquot, hexp, BitVec.xor_zero, BitVec.ofInt_natCast,
      BitVec.ofNat_toNat, BitVec.setWidth_eq]
    rw [boundExp_of_normal (by omega) (by omega)]
    exact compose_decompose f

end Sys2Proof.Machine
end

section
/-! PROOFS. The divider's rounding, as rationals (42_fp_divider.md R165). -/

namespace Sys2Proof.Machine

variable {v w : FloatFields}

/-! ### The fields of a normal result -/

/-- A bounded pattern with an exponent field in 1..254 has passed the bound. -/
theorem boundExp_eq_of_exp_normal {sgn : BitVec 1} {e : Int} {r : Word}
    (hlo : 1 ≤ ((boundExp sgn e r).extractLsb' 23 8).toNat) (hhi : ((boundExp sgn e r).extractLsb' 23 8).toNat ≤ 254) :
    1 ≤ e ∧ e ≤ 254 ∧ boundExp sgn e r = r := by
  obtain h | h | h := boundExp_cases sgn e r
  · rw [h, infinity, compose_exp] at hhi
    exact absurd hhi (of_decide_eq_false rfl)
  · rw [h, signedZero, compose_exp] at hlo
    exact absurd hlo (of_decide_eq_false rfl)
  · exact h

/-- The exponent and the true significand of a composed normal pattern (R134, R163). -/
theorem compose_normal_fields {sgn : BitVec 1} {e : Int} {q : Nat} (helo : 1 ≤ e) (hehi : e ≤ 254) (hqlo : 2 ^ 23 ≤ q)
    (hqhi : q < 2 ^ 24) :
    (((compose ⟨sgn, BitVec.ofInt 8 e, BitVec.ofNat 23 (q - 2 ^ 23)⟩).extractLsb' 23 8).toNat : Int) = e ∧
      2 ^ 23 + ((compose ⟨sgn, BitVec.ofInt 8 e, BitVec.ofNat 23 (q - 2 ^ 23)⟩).extractLsb' 0 23).toNat = q := by
  rw [compose_exp, compose_sig]
  refine ⟨ofInt_exp_toNat (by omega) (by omega), ?_⟩
  rw [BitVec.toNat_ofNat]
  omega

/-- A normal result whose quotient needs no shift. -/
theorem divideFields_fields_of_sig_le (h : w.sig.toNat ≤ v.sig.toNat)
    (hlo : 1 ≤ ((divideFields v w).extractLsb' 23 8).toNat)
    (hhi : ((divideFields v w).extractLsb' 23 8).toNat ≤ 254) :
    (((divideFields v w).extractLsb' 23 8).toNat : Int) = candidateExp v.exp w.exp ∧
      2 ^ 23 + ((divideFields v w).extractLsb' 0 23).toNat = (quotient v.sig w.sig).toNat := by
  have hge := not_lt.mp (mt (quotient_lt_iff v.sig w.sig).mp (not_lt.mpr h))
  rw [divideFields_of_sig_le h] at hlo hhi ⊢
  obtain ⟨helo, hehi, heq⟩ := boundExp_eq_of_exp_normal hlo hhi
  rw [heq]
  exact compose_normal_fields helo hehi hge (quotient_upper v.sig w.sig)

/-- A normal result whose quotient is shifted once. -/
theorem divideFields_fields_of_sig_lt (h : v.sig.toNat < w.sig.toNat)
    (hlo : 1 ≤ ((divideFields v w).extractLsb' 23 8).toNat)
    (hhi : ((divideFields v w).extractLsb' 23 8).toNat ≤ 254) :
    (((divideFields v w).extractLsb' 23 8).toNat : Int) = candidateExp v.exp w.exp - 1 ∧
      2 ^ 23 + ((divideFields v w).extractLsb' 0 23).toNat = 2 * (quotient v.sig w.sig).toNat := by
  have hlower := quotient_lower v.sig w.sig
  have hlt := (quotient_lt_iff v.sig w.sig).mpr h
  rw [divideFields_of_sig_lt h] at hlo hhi ⊢
  obtain ⟨-, -, heq⟩ := boundExp_eq_of_exp_normal hlo hhi
  rw [heq] at hlo hhi ⊢
  obtain ⟨helo, hehi, heq'⟩ := boundExp_eq_of_exp_normal hlo hhi
  rw [heq']
  exact compose_normal_fields helo hehi (by omega) (by omega)

/-! ### Truncation -/

theorem two_zpow_add (m n : Int) : (2 : ℚ) ^ (m + n) = 2 ^ m * 2 ^ n := zpow_add₀ two_ne_zero m n

/-- A truncated quotient of significands, in units of `2 ^ (k - 23)`, is at most the exact quotient and less than a unit
below it. -/
theorem truncatedQuotient_bounds {ma mb q : Nat} (k : Int) (hmb : 0 < mb) (hq : q = ma * 2 ^ 23 / mb) :
    (q : ℚ) * 2 ^ (k - 23) ≤ (ma : ℚ) / mb * 2 ^ k ∧
      (ma : ℚ) / mb * 2 ^ k - q * 2 ^ (k - 23) < (2 : ℚ) ^ (k - 23) := by
  have hmb' : (0 : ℚ) < mb := by exact_mod_cast hmb
  have hunit : (0 : ℚ) < 2 ^ (k - 23) := by positivity
  have hexact : (ma : ℚ) / mb * 2 ^ k = (ma : ℚ) * 2 ^ 23 / mb * 2 ^ (k - 23) := by
    have hk : (2 : ℚ) ^ k = 2 ^ (k - 23) * 2 ^ 23 := by
      rw [← zpow_natCast, ← two_zpow_add]
      congr 1
      omega
    rw [hk]
    ring
  have hle : (q : ℚ) ≤ (ma : ℚ) * 2 ^ 23 / mb := by
    rw [le_div_iff₀ hmb', hq]
    exact_mod_cast Nat.div_mul_le_self (ma * 2 ^ 23) mb
  have hlt : (ma : ℚ) * 2 ^ 23 / mb < q + 1 := by
    rw [div_lt_iff₀' hmb', hq]
    exact_mod_cast Nat.lt_mul_div_succ (ma * 2 ^ 23) hmb
  rw [hexact]
  refine ⟨mul_le_mul_of_nonneg_right hle hunit.le, ?_⟩
  have hscaled := mul_lt_mul_of_pos_right hlt hunit
  linarith

/-! ### The statement -/

/-- Settles O39: in units of `2 ^ (ea - eb - 23)` the result is the truncated quotient of the significands. That unit is
the result's last place where the quotient is not shifted, and twice it where it is. -/
theorem fdivTruncates : Obligations.FdivTruncates := by
  rintro a b r ea eb er ma mb mr rfl hea heb rfl rfl rfl rfl hea0 - heb0 - her0 her1
  rw [fdivF_of_nonzero_nonzero (isZero_eq_false_of_exp_pos (hea ▸ hea0)) (isZero_eq_false_of_exp_pos (heb ▸ heb0))]
    at her0 her1 ⊢
  have hcand : candidateExp (decompose a).exp (decompose b).exp = (ea : Int) - eb + 127 := by
    rw [candidateExp_eq, decompose_exp, decompose_exp, hea, heb]
  obtain ⟨hle, hlt⟩ := truncatedQuotient_bounds ((ea : Int) - eb) (by omega)
    (quotient_toNat (a.extractLsb' 0 23) (b.extractLsb' 0 23))
  refine ⟨_, _, _, rfl, rfl, rfl, ?_⟩
  by_cases hsig : (a.extractLsb' 0 23).toNat < (b.extractLsb' 0 23).toNat
  · obtain ⟨hexp, hmr⟩ := divideFields_fields_of_sig_lt hsig her0 her1
    have hulp : (2 : ℚ) ^ ((ea : Int) - eb - 23) = 2 * 2 ^ ((ea : Int) - eb + 127 - 1 - 150) := by
      rw [← zpow_one_add₀ two_ne_zero]
      congr 1
      omega
    rw [hulp, mul_left_comm, ← mul_assoc] at hle hlt
    rw [hexp, hmr, hcand, Nat.cast_mul, Nat.cast_two]
    exact ⟨hle, fun h => absurd h (by omega), fun _ => hlt⟩
  · obtain ⟨hexp, hmr⟩ := divideFields_fields_of_sig_le (not_lt.mp hsig) her0 her1
    have hulp : (ea : Int) - eb + 127 - 150 = (ea : Int) - eb - 23 := by omega
    rw [hexp, hmr, hcand, hulp]
    exact ⟨hle, fun _ => hlt, fun h => absurd h (by omega)⟩

end Sys2Proof.Machine
end

section
/-! PROOFS. The pattern that a decimal literal names (30_encoding.md R81). -/

namespace Sys2Proof.Machine

variable {digits places k : Nat}

/-! ### An exactly representable literal -/

theorem litExact_iff :
    litExact digits places = true ↔ digits * 2 ^ 149 % 10 ^ places = 0 ∧
      litUnits digits places % 2 ^ litShift (litUnits digits places) = 0 ∧ (litUnits digits places).log2 < 277 := by
  simp [litExact, and_assoc]

/-- The exponent field of `k` units of `2 ^ (-149)`. -/
def litExp (k : Nat) : Nat := if k < 2 ^ 23 then 0 else k.log2 - 22

theorem litBits_eq (neg : Bool) (digits places : Nat) :
    litBits neg digits places = compose ⟨BitVec.ofBool neg, BitVec.ofNat 8 (litExp (litUnits digits places)),
      BitVec.ofNat 23 (litUnits digits places / 2 ^ litShift (litUnits digits places))⟩ := rfl

theorem litExp_le (h : k.log2 < 277) : litExp k ≤ 254 := by
  unfold litExp
  split_ifs <;> omega

/-- The literal's number in units of `2 ^ (-149)`, of which it is a whole number. -/
theorem literal_eq_litUnits (h : digits * 2 ^ 149 % 10 ^ places = 0) :
    (digits : ℚ) / 10 ^ places = litUnits digits places * (2 : ℚ) ^ (-149 : Int) := by
  have hunits : litUnits digits places * 10 ^ places = digits * 2 ^ 149 :=
    Nat.div_mul_cancel (Nat.dvd_of_mod_eq_zero h)
  have hcast : (litUnits digits places : ℚ) * 10 ^ places = digits * 2 ^ 149 := by exact_mod_cast hunits
  rw [zpow_neg, ← div_eq_mul_inv, div_eq_div_iff (by positivity) (by positivity), hcast]
  norm_cast

/-- Below `2 ^ (-126)` the units are the stored significand. -/
theorem litSig_of_lt (h : k < 2 ^ 23) : k / 2 ^ litShift k = k := by
  have hlog : k.log2 - 23 = 0 := by
    by_cases hk : k = 0
    · simp [hk]
    · have hlt := (Nat.log2_lt hk).mpr h
      omega
  rw [litShift, hlog, Nat.pow_zero, Nat.div_one]

theorem log2_ge (h : 2 ^ 23 ≤ k) : 23 ≤ k.log2 := (Nat.le_log2 (by omega)).mpr h

theorem litExp_ne_zero (h : 2 ^ 23 ≤ k) : litExp k ≠ 0 := by
  have hlog := log2_ge h
  rw [litExp, if_neg (by omega)]
  omega

/-- From there on the leading 1 is shifted to bit 23. -/
theorem litSig_range (h : 2 ^ 23 ≤ k) : 2 ^ 23 ≤ k / 2 ^ litShift k ∧ k / 2 ^ litShift k < 2 ^ 24 := by
  have hk : k ≠ 0 := by omega
  have hlog := log2_ge h
  have hlo := Nat.log2_self_le hk
  have hhi := Nat.lt_log2_self (n := k)
  rw [litShift, Nat.le_div_iff_mul_le (by positivity), Nat.div_lt_iff_lt_mul (by positivity), ← Nat.pow_add,
    ← Nat.pow_add, Nat.add_sub_cancel' hlog, Nat.add_comm, ← Nat.sub_add_comm hlog]
  exact ⟨hlo, hhi⟩

/-- The shift drops no bit of an exactly representable number, and the exponent field stands for it. -/
theorem litUnits_eq_of_ge (h : 2 ^ 23 ≤ k) (hexact : k % 2 ^ litShift k = 0) :
    (k : ℚ) * 2 ^ (-149 : Int) = (k / 2 ^ litShift k : Nat) * (2 : ℚ) ^ ((litExp k : Int) - 150) := by
  have hlog := log2_ge h
  have hsplit : k / 2 ^ litShift k * 2 ^ litShift k = k := Nat.div_mul_cancel (Nat.dvd_of_mod_eq_zero hexact)
  have hexp : (litExp k : Int) - 150 = litShift k + (-149) := by
    rw [litExp, if_neg (by omega), litShift]
    omega
  rw [hexp, two_zpow_add, zpow_natCast, ← mul_assoc]
  congr 1
  exact_mod_cast hsplit.symm

/-! ### The statement -/

/-- Settles O55: the pattern's fields are the literal's sign, `litExp` of its units and their leading 24 bits less the
implicit one, and no unit is lost. -/
theorem literalNamesItsPattern : Obligations.LiteralNamesItsPattern := by
  rintro neg digits places e g hwf rfl rfl
  obtain ⟨hunits, hexact, hlog⟩ := litExact_iff.mp hwf
  have hsign (c : Bool) : (BitVec.ofBool c == 1#1) = c := by cases c <;> rfl
  rw [wordBits, litBits_eq, compose_getLsbD_sign, compose_exp, compose_sig, hsign, literal_eq_litUnits hunits]
  generalize litUnits digits places = k at *
  have hle := litExp_le hlog
  have hexp : (BitVec.ofNat 8 (litExp k)).toNat = litExp k := by
    rw [BitVec.toNat_ofNat]
    omega
  simp only [hexp, BitVec.toNat_ofNat]
  refine ⟨trivial, hle, ?_⟩
  by_cases hk : k < 2 ^ 23
  · have hzero : litExp k = 0 := if_pos hk
    rw [if_pos hzero, litSig_of_lt hk, Nat.mod_eq_of_lt hk]
  · have hpos := litExp_ne_zero (not_lt.mp hk)
    obtain ⟨hlo, hhi⟩ := litSig_range (not_lt.mp hk)
    have hsig : 2 ^ 23 + k / 2 ^ litShift k % 2 ^ 23 = k / 2 ^ litShift k := by omega
    rw [if_neg hpos, litUnits_eq_of_ge (not_lt.mp hk) hexact]
    congr 1
    exact_mod_cast hsig.symm

end Sys2Proof.Machine
end
